-- ==== Sys2Proof/Word.lean ====
section
/-! DEFINITION. The word types of the unit and their plainest forms (R6, R7, R80). -/

namespace Sys2Proof

/-- One byte of any memory the unit reaches (R81). -/
abbrev Byte := BitVec 8

/-- A `half`: an IEEE-754 binary16 bit pattern (R7). -/
abbrev Half := BitVec 16

/-- An `f32`: an IEEE-754 binary32 bit pattern (R7). -/
abbrev F32 := BitVec 32

/-- A `u32` or `i32` operand as its 32 bits (R5, R156). -/
abbrev Word32 := BitVec 32

/-- A block: "the 128-bit value `blk`" (R6); bit k is bit k mod 8 of byte ⌊k/8⌋ (R80). -/
abbrev Block := BitVec 128

/-- A sparse memory: key and value pairs. Its canonical form and its operations are in Machine/Ops.lean. -/
abbrev Sparse (β : Type) := List (Nat × β)

end Sys2Proof
end

