-- ==== Sys2Proof/Config.lean ====
section
/-! DEFINITION. The implementation parameters of R5: the fixed ones, the types of the open ones, and the free values. -/

namespace Sys2Proof

/-- The decoder's only condition indicator (R32). -/
inductive Status where
  | ok
  | error
deriving DecidableEq, Repr, Inhabited

/-- A sample, the sampler's result (R340): a tagged union, `none` being the empty sample. -/
inductive Sample where
  | none
  | f32 (x : F32)
  | i32 (x : Word32)
  | u32 (x : Word32)
  | f32x2 (x y : F32)
  | f32x3 (x y z : F32)
  | f32x4 (x y z w : F32)
  | i32x2 (x y : Word32)
  | i32x3 (x y z : Word32)
  | i32x4 (x y z w : Word32)
  | u32x2 (x y : Word32)
  | u32x3 (x y z : Word32)
  | u32x4 (x y z w : Word32)
deriving DecidableEq, Repr, Inhabited

/-- The kinds `formatKind` classifies a texture's format into (R342). -/
inductive Kind where
  | bc6hUf16
  | bc6hSf16
  | bc7
  | other
deriving DecidableEq, Repr, Inhabited

/-- What `OtherDecoder` gives of its block besides the decode function (R363): the extent and the byte size. -/
structure OtherBlock where
  bw : Nat
  bh : Nat
  bytes : Nat
deriving DecidableEq, Repr, Inhabited

namespace Config

/-- `MAX_BLOCK_TEXELS` (R5): the entries of the internal scratch buffer. -/
abbrev maxBlockTexels : Nat := 144

/-- OPEN (R5, R363): the block geometry `OtherDecoder` gives for a format identifier (log 8). -/
opaque otherBlock : Nat → OtherBlock

/-- OPEN (R5, R363): the status `OtherDecoder` returns for a format identifier and the block's bytes (log 8). -/
opaque otherStatus : Nat → List Byte → Status

/-- OPEN (R5, R363): the sample `OtherDecoder` gives for entry i of the block (log 8). -/
opaque otherSample : Nat → List Byte → Nat → Sample

/-- FREE VALUE (R414, U9): "any `Sample` value", a fresh one for each value of the counter (log 12). -/
opaque freeSample : Nat → Sample

/-- FREE VALUE (R414, U9): the status of a DECODE whose output buffer was shared while in progress (log 12). -/
opaque freeStatus : Nat → Status

/-- FREE VALUE (R414, U9): a byte of an output buffer that was shared while in progress (log 12). -/
opaque freeByte : Nat → Byte

/-- FREE VALUE (R415, U10): whether a byte written while it is read is read as the new value (log 13). -/
opaque freeChoice : Nat → Bool

end Config

end Sys2Proof
end

