-- ==== Sys2Proof/Syntax.lean ====
section
/-! DEFINITION. The instructions: one constructor for each row of spec/opcode_table.json, with its operands, and the
request as it is encoded (R155, R156). -/

namespace Sys2Proof

/-- The four output representations of DECODE_BC6H (R211). -/
inductive Layout where
  | half3
  | half4
  | float3
  | float4
deriving DecidableEq, Repr, Inhabited

/-- A DECODE's output buffer: its byte address in requester memory and how many entries it has (R156). -/
structure OutRef where
  addr : Nat
  entries : Nat
deriving DecidableEq, Repr, Inhabited

/-- A caller's scratch buffer: its first entry in the scratch space and its capacity N (R343). -/
structure ScratchRef where
  base : Nat
  cap : Nat
deriving DecidableEq, Repr, Inhabited

/-- Three 32-bit operands: the texel (x, y, z) as i32, or uv (u, v, w) as f32 (R156). -/
structure Vec3 where
  x : Word32
  y : Word32
  z : Word32
deriving DecidableEq, Repr, Inhabited

/-- The selectors of LOAD and SAMPLE, u32 each (R156, R364). -/
structure Selector where
  slice : Word32
  face : Word32
  mip : Word32
deriving DecidableEq, Repr, Inhabited

/-- One value for each of the channels r, g, b: stored fields, or precisions. -/
structure Rgb where
  r : Nat
  g : Nat
  b : Nat
deriving DecidableEq, Repr, Inhabited

/-- One value for each of the channels R, G, B, A: stored fields, or precisions. -/
structure Rgba where
  r : Nat
  g : Nat
  b : Nat
  a : Nat
deriving DecidableEq, Repr, Inhabited

/-- The fields of a BC6H block of a valid mode (R113): the stored endpoint fields w = `E[0][A]`, x = `E[0][B]`,
y = `E[1][A]`, z = `E[1][B]`, the shape `d`, and the 16 stored indices in raster order (R128). -/
structure Bc6hFields where
  w : Rgb
  x : Rgb
  y : Rgb
  z : Rgb
  d : Nat
  idx : List Nat
deriving DecidableEq, Repr, Inhabited

/-- The fields of a BC7 block of a valid mode, in the order of R141: the endpoints' stored channels (endpoint 2r is
region r's A, 2r+1 its B), the P-bits, the primary and the secondary indices. -/
structure Bc7Fields where
  shape : Nat
  rot : Nat
  imode : Nat
  ends : List Rgba
  pbits : List Nat
  w1 : List Nat
  w2 : List Nat
deriving DecidableEq, Repr, Inhabited

/-- The instructions of the unit: the block modes, which the decode datapath runs, and the requests. A reserved mode
carries the block bits it ignores (R129, R150). -/
inductive Instr where
  | bc6hM1 (signed : Bool) (layout : Layout) (f : Bc6hFields)
  | bc6hM2 (signed : Bool) (layout : Layout) (f : Bc6hFields)
  | bc6hM3 (signed : Bool) (layout : Layout) (f : Bc6hFields)
  | bc6hM4 (signed : Bool) (layout : Layout) (f : Bc6hFields)
  | bc6hM5 (signed : Bool) (layout : Layout) (f : Bc6hFields)
  | bc6hM6 (signed : Bool) (layout : Layout) (f : Bc6hFields)
  | bc6hM7 (signed : Bool) (layout : Layout) (f : Bc6hFields)
  | bc6hM8 (signed : Bool) (layout : Layout) (f : Bc6hFields)
  | bc6hM9 (signed : Bool) (layout : Layout) (f : Bc6hFields)
  | bc6hM10 (signed : Bool) (layout : Layout) (f : Bc6hFields)
  | bc6hM11 (signed : Bool) (layout : Layout) (f : Bc6hFields)
  | bc6hM12 (signed : Bool) (layout : Layout) (f : Bc6hFields)
  | bc6hM13 (signed : Bool) (layout : Layout) (f : Bc6hFields)
  | bc6hM14 (signed : Bool) (layout : Layout) (f : Bc6hFields)
  | bc6hReserved13 (signed : Bool) (layout : Layout) (ignored : BitVec 123)
  | bc6hReserved17 (signed : Bool) (layout : Layout) (ignored : BitVec 123)
  | bc6hReserved1B (signed : Bool) (layout : Layout) (ignored : BitVec 123)
  | bc6hReserved1F (signed : Bool) (layout : Layout) (ignored : BitVec 123)
  | bc7Mode0 (f : Bc7Fields)
  | bc7Mode1 (f : Bc7Fields)
  | bc7Mode2 (f : Bc7Fields)
  | bc7Mode3 (f : Bc7Fields)
  | bc7Mode4 (f : Bc7Fields)
  | bc7Mode5 (f : Bc7Fields)
  | bc7Mode6 (f : Bc7Fields)
  | bc7Mode7 (f : Bc7Fields)
  | bc7Reserved (ignored : BitVec 120)
  | decodeBc6h (signed : Bool) (layout : Layout) (blk : Nat) (out : OutRef)
  | decodeBc7 (blk : Nat) (out : OutRef)
  /-- `scratch = none` is the internal-buffer form, `scr = 1` (R343). -/
  | load (scratch : Option ScratchRef) (smp : Nat) (texel : Vec3) (sel : Selector)
  /-- `scratch = none` is the internal-buffer form, `scr = 1` (R343). -/
  | sample (scratch : Option ScratchRef) (smp : Nat) (uv : Vec3) (sel : Selector)
deriving DecidableEq, Repr

/-- The operand record of a request (R156), the record of all four operations in one: an operation reads its own
operands of it. `blk` is the byte address of the block operand; `coord` is LOAD's texel or SAMPLE's uv; `scratch` is
`none` when the request names no scratch buffer. -/
structure Operands where
  blk : Nat
  out : OutRef
  scratch : Option ScratchRef
  smp : Nat
  coord : Vec3
  sel : Selector
deriving DecidableEq, Repr, Inhabited

/-- A request (R155): the command byte and the operand record, issued by a requester (R2 (a)). -/
structure Request where
  requester : Nat
  cmd : Byte
  ops : Operands
deriving DecidableEq, Repr, Inhabited

/-- The three encoding spaces (R110), with what the request gives a BC6H block: `signed` and `layout`. -/
inductive Space where
  | request
  | bc6h (signed : Bool) (layout : Layout)
  | bc7
deriving DecidableEq, Repr

/-- Why an encoding is rejected: R157's refused requests by their case, a block of fewer than 16 bytes, and a BC6H
code that the mode prefix cannot produce (R112; no block has one). -/
inductive Reject where
  | reservedCmdBits
  | misplacedField
  | scrOnDecode
  | shortOutput
  | noScratch
  | shortBlock
  | noSuchCode
deriving DecidableEq, Repr

end Sys2Proof
end

