-- ==== Sys2Proof/Machine/Rom.lean ====
section
/-! DEFINITION. The constant tables of R35: the per-mode records, the weights, the partitions and the fix-up pixels. The
header layouts of R114 to R127 stand in Decode.lean. -/

namespace Sys2Proof

/-- A record of `ROM.BC6H_INFO` (R36): the partition count, whether the mode is transformed, the index precision, and
the channel precisions of E0.A, E0.B, E1.A, E1.B. -/
structure Bc6hInfo where
  pc : Nat
  tr : Bool
  ib : Nat
  a0 : Rgb
  b0 : Rgb
  a1 : Rgb
  b1 : Rgb
deriving DecidableEq, Repr

/-- A record of `ROM.BC7_INFO` (R37), under the names of R260. -/
structure Bc7Info where
  pc : Nat
  pb : Nat
  np : Nat
  rb : Nat
  imb : Nat
  ip : Nat
  ip2 : Nat
  prec : Rgba
  precP : Rgba
deriving DecidableEq, Repr

namespace Rom

/-- `ROM.BC6H_MODEMAP` and `ROM.BC6H_INFO` (R112, R36): `none` for a code that is reserved. In a one-region mode the
precisions of region 1 are not used (R36) and stand as 0. -/
def bc6hInfo (code : Nat) : Option Bc6hInfo :=
  match code with
  | 0x00 => some ⟨1, true, 3, ⟨10, 10, 10⟩, ⟨5, 5, 5⟩, ⟨5, 5, 5⟩, ⟨5, 5, 5⟩⟩  -- M1
  | 0x01 => some ⟨1, true, 3, ⟨7, 7, 7⟩, ⟨6, 6, 6⟩, ⟨6, 6, 6⟩, ⟨6, 6, 6⟩⟩  -- M2
  | 0x02 => some ⟨1, true, 3, ⟨11, 11, 11⟩, ⟨5, 4, 4⟩, ⟨5, 4, 4⟩, ⟨5, 4, 4⟩⟩  -- M3
  | 0x06 => some ⟨1, true, 3, ⟨11, 11, 11⟩, ⟨4, 5, 4⟩, ⟨4, 5, 4⟩, ⟨4, 5, 4⟩⟩  -- M4
  | 0x0A => some ⟨1, true, 3, ⟨11, 11, 11⟩, ⟨4, 4, 5⟩, ⟨4, 4, 5⟩, ⟨4, 4, 5⟩⟩  -- M5
  | 0x0E => some ⟨1, true, 3, ⟨9, 9, 9⟩, ⟨5, 5, 5⟩, ⟨5, 5, 5⟩, ⟨5, 5, 5⟩⟩  -- M6
  | 0x12 => some ⟨1, true, 3, ⟨8, 8, 8⟩, ⟨6, 5, 5⟩, ⟨6, 5, 5⟩, ⟨6, 5, 5⟩⟩  -- M7
  | 0x16 => some ⟨1, true, 3, ⟨8, 8, 8⟩, ⟨5, 6, 5⟩, ⟨5, 6, 5⟩, ⟨5, 6, 5⟩⟩  -- M8
  | 0x1A => some ⟨1, true, 3, ⟨8, 8, 8⟩, ⟨5, 5, 6⟩, ⟨5, 5, 6⟩, ⟨5, 5, 6⟩⟩  -- M9
  | 0x1E => some ⟨1, false, 3, ⟨6, 6, 6⟩, ⟨6, 6, 6⟩, ⟨6, 6, 6⟩, ⟨6, 6, 6⟩⟩  -- M10
  | 0x03 => some ⟨0, false, 4, ⟨10, 10, 10⟩, ⟨10, 10, 10⟩, ⟨0, 0, 0⟩, ⟨0, 0, 0⟩⟩  -- M11
  | 0x07 => some ⟨0, true, 4, ⟨11, 11, 11⟩, ⟨9, 9, 9⟩, ⟨0, 0, 0⟩, ⟨0, 0, 0⟩⟩  -- M12
  | 0x0B => some ⟨0, true, 4, ⟨12, 12, 12⟩, ⟨8, 8, 8⟩, ⟨0, 0, 0⟩, ⟨0, 0, 0⟩⟩  -- M13
  | 0x0F => some ⟨0, true, 4, ⟨16, 16, 16⟩, ⟨4, 4, 4⟩, ⟨0, 0, 0⟩, ⟨0, 0, 0⟩⟩  -- M14
  | _ => none

/-- `ROM.BC7_INFO` (R37): `none` for mode 8, which is reserved. -/
def bc7Info (mode : Nat) : Option Bc7Info :=
  match mode with
  | 0 => some ⟨2, 4, 6, 0, 0, 3, 0, ⟨4, 4, 4, 0⟩, ⟨5, 5, 5, 0⟩⟩
  | 1 => some ⟨1, 6, 2, 0, 0, 3, 0, ⟨6, 6, 6, 0⟩, ⟨7, 7, 7, 0⟩⟩
  | 2 => some ⟨2, 6, 0, 0, 0, 2, 0, ⟨5, 5, 5, 0⟩, ⟨5, 5, 5, 0⟩⟩
  | 3 => some ⟨1, 6, 4, 0, 0, 2, 0, ⟨7, 7, 7, 0⟩, ⟨8, 8, 8, 0⟩⟩
  | 4 => some ⟨0, 0, 0, 2, 1, 2, 3, ⟨5, 5, 5, 6⟩, ⟨5, 5, 5, 6⟩⟩
  | 5 => some ⟨0, 0, 0, 2, 0, 2, 2, ⟨7, 7, 7, 8⟩, ⟨7, 7, 7, 8⟩⟩
  | 6 => some ⟨0, 0, 2, 0, 0, 4, 0, ⟨7, 7, 7, 7⟩, ⟨8, 8, 8, 8⟩⟩
  | 7 => some ⟨1, 6, 4, 0, 0, 2, 0, ⟨5, 5, 5, 5⟩, ⟨6, 6, 6, 6⟩⟩
  | _ => none

/-- `ROM.WEIGHTS2` (R38). -/
def weights2 : List Nat := [0, 21, 43, 64]

/-- `ROM.WEIGHTS3` (R38). -/
def weights3 : List Nat := [0, 9, 18, 27, 37, 46, 55, 64]

/-- `ROM.WEIGHTS4` (R38). -/
def weights4 : List Nat := [0, 4, 9, 13, 17, 21, 26, 30, 34, 38, 43, 47, 51, 55, 60, 64]

/-- The weight an index of precision `p` selects (R300). -/
def weight (p idx : Nat) : Nat :=
  match p with
  | 2 => weights2.getD idx 0
  | 3 => weights3.getD idx 0
  | 4 => weights4.getD idx 0
  | _ => 0

/-- R40, the third column: bit i set = pixel i in region 1, shapes 0..15. -/
def twoRegionMask0 : List Nat :=
  [0xCCCC, 0x8888, 0xEEEE, 0xECC8, 0xC880, 0xFEEC, 0xFEC8, 0xEC80,
   0xC800, 0xFFEC, 0xFE80, 0xE800, 0xFFE8, 0xFF00, 0xFFF0, 0xF000]

/-- R40, the third column: bit i set = pixel i in region 1, shapes 16..31. -/
def twoRegionMask1 : List Nat :=
  [0xF710, 0x008E, 0x7100, 0x08CE, 0x008C, 0x7310, 0x3100, 0x8CCE,
   0x088C, 0x3110, 0x6666, 0x366C, 0x17E8, 0x0FF0, 0x718E, 0x399C]

/-- R40, the third column: bit i set = pixel i in region 1, shapes 32..47. -/
def twoRegionMask2 : List Nat :=
  [0xAAAA, 0xF0F0, 0x5A5A, 0x33CC, 0x3C3C, 0x55AA, 0x9696, 0xA55A,
   0x73CE, 0x13C8, 0x324C, 0x3BDC, 0x6996, 0xC33C, 0x9966, 0x0660]

/-- R40, the third column: bit i set = pixel i in region 1, shapes 48..63. -/
def twoRegionMask3 : List Nat :=
  [0x0272, 0x04E4, 0x4E40, 0x2720, 0xC936, 0x936C, 0x39C6, 0x639C,
   0x9336, 0x9CC6, 0x817E, 0xE718, 0xCCF0, 0x0FCC, 0x7744, 0xEE22]

/-- R40, the third column: bit i set = pixel i in region 1, indexed by shape 0..63. -/
def twoRegionMask : List Nat := twoRegionMask0 ++ twoRegionMask1 ++ twoRegionMask2 ++ twoRegionMask3

/-- R41, the third column: pixel i in bits 2i+1:2i, shapes 0..15. -/
def threeRegionPacked0 : List Nat :=
  [0xAA685050, 0x6A5A5040, 0x5A5A4200, 0x5450A0A8, 0xA5A50000, 0xA0A05050, 0x5555A0A0, 0x5A5A5050,
   0xAA550000, 0xAA555500, 0xAAAA5500, 0x90909090, 0x94949494, 0xA4A4A4A4, 0xA9A59450, 0x2A0A4250]

/-- R41, the third column: pixel i in bits 2i+1:2i, shapes 16..31. -/
def threeRegionPacked1 : List Nat :=
  [0xA5945040, 0x0A425054, 0xA5A5A500, 0x55A0A0A0, 0xA8A85454, 0x6A6A4040, 0xA4A45000, 0x1A1A0500,
   0x0050A4A4, 0xAAA59090, 0x14696914, 0x69691400, 0xA08585A0, 0xAA821414, 0x50A4A450, 0x6A5A0200]

/-- R41, the third column: pixel i in bits 2i+1:2i, shapes 32..47. -/
def threeRegionPacked2 : List Nat :=
  [0xA9A58000, 0x5090A0A8, 0xA8A09050, 0x24242424, 0x00AA5500, 0x24924924, 0x24499224, 0x50A50A50,
   0x500AA550, 0xAAAA4444, 0x66660000, 0xA5A0A5A0, 0x50A050A0, 0x69286928, 0x44AAAA44, 0x66666600]

/-- R41, the third column: pixel i in bits 2i+1:2i, shapes 48..63. -/
def threeRegionPacked3 : List Nat :=
  [0xAA444444, 0x54A854A8, 0x95809580, 0x96969600, 0xA85454A8, 0x80959580, 0xAA141414, 0x96960000,
   0xAAAA1414, 0xA05050A0, 0xA0A5A5A0, 0x96000000, 0x40804080, 0xA9A8A9A8, 0xAAAAAA44, 0x2A4A5254]

/-- R41, the third column: pixel i in bits 2i+1:2i, indexed by shape 0..63. -/
def threeRegionPacked : List Nat := threeRegionPacked0 ++ threeRegionPacked1 ++ threeRegionPacked2 ++ threeRegionPacked3

/-- R40, the last column: the fix-up pixel of region 1, shapes 0..15. -/
def twoRegionFixup0 : List Nat :=
  [15, 15, 15, 15, 15, 15, 15, 15,
   15, 15, 15, 15, 15, 15, 15, 15]

/-- R40, the last column: the fix-up pixel of region 1, shapes 16..31. -/
def twoRegionFixup1 : List Nat :=
  [15, 2, 8, 2, 2, 8, 8, 15,
   2, 8, 2, 2, 8, 8, 2, 2]

/-- R40, the last column: the fix-up pixel of region 1, shapes 32..47. -/
def twoRegionFixup2 : List Nat :=
  [15, 15, 6, 8, 2, 8, 15, 15,
   2, 8, 2, 2, 2, 15, 15, 6]

/-- R40, the last column: the fix-up pixel of region 1, shapes 48..63. -/
def twoRegionFixup3 : List Nat :=
  [6, 2, 6, 8, 15, 15, 2, 2,
   15, 15, 15, 15, 15, 2, 2, 15]

/-- R40, the last column: the fix-up pixel of region 1, indexed by shape 0..63. -/
def twoRegionFixup : List Nat := twoRegionFixup0 ++ twoRegionFixup1 ++ twoRegionFixup2 ++ twoRegionFixup3

/-- R41: the fix-up pixel of region 1, shapes 0..15. -/
def threeRegionFixup10 : List Nat :=
  [3, 3, 15, 15, 8, 3, 15, 15,
   8, 8, 6, 6, 6, 5, 3, 3]

/-- R41: the fix-up pixel of region 1, shapes 16..31. -/
def threeRegionFixup11 : List Nat :=
  [3, 3, 8, 15, 3, 3, 6, 10,
   5, 8, 8, 6, 8, 5, 15, 15]

/-- R41: the fix-up pixel of region 1, shapes 32..47. -/
def threeRegionFixup12 : List Nat :=
  [8, 15, 3, 5, 6, 10, 8, 15,
   15, 3, 15, 5, 15, 15, 15, 15]

/-- R41: the fix-up pixel of region 1, shapes 48..63. -/
def threeRegionFixup13 : List Nat :=
  [3, 15, 5, 5, 5, 8, 5, 10,
   5, 10, 8, 13, 15, 12, 3, 3]

/-- R41: the fix-up pixel of region 1, indexed by shape 0..63. -/
def threeRegionFixup1 : List Nat := threeRegionFixup10 ++ threeRegionFixup11 ++ threeRegionFixup12 ++ threeRegionFixup13

/-- R41: the fix-up pixel of region 2, shapes 0..15. -/
def threeRegionFixup20 : List Nat :=
  [15, 8, 8, 3, 15, 15, 3, 8,
   15, 15, 15, 15, 15, 15, 15, 8]

/-- R41: the fix-up pixel of region 2, shapes 16..31. -/
def threeRegionFixup21 : List Nat :=
  [15, 8, 15, 3, 15, 8, 15, 8,
   3, 15, 6, 10, 15, 15, 10, 8]

/-- R41: the fix-up pixel of region 2, shapes 32..47. -/
def threeRegionFixup22 : List Nat :=
  [15, 3, 15, 10, 10, 8, 9, 10,
   6, 15, 8, 15, 3, 6, 6, 8]

/-- R41: the fix-up pixel of region 2, shapes 48..63. -/
def threeRegionFixup23 : List Nat :=
  [15, 3, 15, 15, 15, 15, 15, 15,
   15, 15, 15, 15, 3, 15, 15, 8]

/-- R41: the fix-up pixel of region 2, indexed by shape 0..63. -/
def threeRegionFixup2 : List Nat := threeRegionFixup20 ++ threeRegionFixup21 ++ threeRegionFixup22 ++ threeRegionFixup23

/-- `ROM.PART[pc][shape][i]` (R39, R40, R41): the region of pixel i. -/
def part (pc shape i : Nat) : Nat :=
  match pc with
  | 0 => 0
  | 1 => (twoRegionMask.getD shape 0 >>> i) % 2
  | _ => (threeRegionPacked.getD shape 0 >>> (2 * i)) % 4

/-- `ROM.FIXUP[pc][shape][r]` (R42): the fix-up pixel of region r. -/
def fixup (pc shape r : Nat) : Nat :=
  match pc, r with
  | 1, 1 => twoRegionFixup.getD shape 0
  | 2, 1 => threeRegionFixup1.getD shape 0
  | 2, 2 => threeRegionFixup2.getD shape 0
  | _, _ => 0

/-- `IsFixUp(pc, shape, i)` (R42). -/
def isFixUp (pc shape i : Nat) : Bool :=
  (List.range (pc + 1)).any fun r => fixup pc shape r == i

/-- The width of pixel i's index field: one bit less than the precision `p` at a fix-up pixel (R128, R152). -/
def indexWidth (pc shape p i : Nat) : Nat :=
  if isFixUp pc shape i then p - 1 else p

/-- The widths of the 16 index fields in raster order (R128, R152). -/
def indexWidths (pc shape p : Nat) : List Nat :=
  (List.range 16).map (indexWidth pc shape p)

/-- The widths of the secondary index fields (R152, R269): none without a secondary stream, otherwise one bit less at
pixel 0 alone. -/
def secondaryWidths (p : Nat) : List Nat :=
  if p = 0 then [] else (p - 1) :: List.replicate 15 p

end Rom

end Sys2Proof
end

