-- ==== Sys2Proof/WellFormed.lean ====
section
/-! DEFINITION. What a well-formed instruction is: every field within the width its encoding gives it (R113, R128, R141,
R152), and an output buffer of a DECODE with its 16 entries (R157 (4)). -/

namespace Sys2Proof

/-- Each channel value fits its precision. -/
def Rgb.fits (p v : Rgb) : Bool :=
  decide (v.r < 2 ^ p.r) && decide (v.g < 2 ^ p.g) && decide (v.b < 2 ^ p.b)

/-- Each channel value fits its precision; a channel of precision 0 is absent and reads as 0 (R141). -/
def Rgba.fits (p v : Rgba) : Bool :=
  decide (v.r < 2 ^ p.r) && decide (v.g < 2 ^ p.g) && decide (v.b < 2 ^ p.b) && decide (v.a < 2 ^ p.a)

/-- The values are as many as the widths, and each fits its own. -/
def fieldsFit : List Nat → List Nat → Bool
  | [], [] => true
  | w :: ws, v :: vs => decide (v < 2 ^ w) && fieldsFit ws vs
  | _, _ => false

/-- The fields fit the layout of the BC6H mode `code` (R114 to R128): a one-region mode has no shape and no region 1. -/
def Bc6hFields.wf (code : Nat) (f : Bc6hFields) : Bool :=
  match Rom.bc6hInfo code with
  | none => false
  | some i =>
    Rgb.fits i.a0 f.w && Rgb.fits i.b0 f.x && Rgb.fits i.a1 f.y && Rgb.fits i.b1 f.z &&
      decide (f.d < (if i.pc = 1 then 32 else 1)) && fieldsFit (Rom.indexWidths i.pc f.d i.ib) f.idx

/-- The fields fit the layout of the BC7 mode (R141 to R152). -/
def Bc7Fields.wf (mode : Nat) (f : Bc7Fields) : Bool :=
  match Rom.bc7Info mode with
  | none => false
  | some i =>
    decide (f.shape < 2 ^ i.pb) && decide (f.rot < 2 ^ i.rb) && decide (f.imode < 2 ^ i.imb) &&
      decide (f.ends.length = 2 * (i.pc + 1)) && f.ends.all (Rgba.fits i.prec) &&
      fieldsFit (List.replicate i.np 1) f.pbits &&
      fieldsFit (Rom.indexWidths i.pc f.shape i.ip) f.w1 && fieldsFit (Rom.secondaryWidths i.ip2) f.w2

/-- R157 (4): a DECODE's output buffer has its 16 entries. -/
def OutRef.wf (o : OutRef) : Bool :=
  decide (16 ≤ o.entries)

/-- A well-formed instruction. -/
def Instr.wf (i : Instr) : Bool :=
  match i with
  | .bc6hM1 _ _ f => f.wf 0x00
  | .bc6hM2 _ _ f => f.wf 0x01
  | .bc6hM3 _ _ f => f.wf 0x02
  | .bc6hM4 _ _ f => f.wf 0x06
  | .bc6hM5 _ _ f => f.wf 0x0A
  | .bc6hM6 _ _ f => f.wf 0x0E
  | .bc6hM7 _ _ f => f.wf 0x12
  | .bc6hM8 _ _ f => f.wf 0x16
  | .bc6hM9 _ _ f => f.wf 0x1A
  | .bc6hM10 _ _ f => f.wf 0x1E
  | .bc6hM11 _ _ f => f.wf 0x03
  | .bc6hM12 _ _ f => f.wf 0x07
  | .bc6hM13 _ _ f => f.wf 0x0B
  | .bc6hM14 _ _ f => f.wf 0x0F
  | .bc6hReserved13 _ _ _ => true
  | .bc6hReserved17 _ _ _ => true
  | .bc6hReserved1B _ _ _ => true
  | .bc6hReserved1F _ _ _ => true
  | .bc7Mode0 f => f.wf 0
  | .bc7Mode1 f => f.wf 1
  | .bc7Mode2 f => f.wf 2
  | .bc7Mode3 f => f.wf 3
  | .bc7Mode4 f => f.wf 4
  | .bc7Mode5 f => f.wf 5
  | .bc7Mode6 f => f.wf 6
  | .bc7Mode7 f => f.wf 7
  | .bc7Reserved _ => true
  | .decodeBc6h _ _ _ out => out.wf
  | .decodeBc7 _ out => out.wf
  | .load _ _ _ _ => true
  | .sample _ _ _ _ => true

end Sys2Proof
end

