-- ==== Sys2Proof/Decode.lean ====
section
/-! DEFINITION. The bit cursor (R170 to R175), the decoder of the three encoding spaces (R110 to R160), total and rejecting
by name, and the encoder, written from the same layouts. -/

namespace Sys2Proof

/-! ### The bit cursor -/

namespace Bits

/-- `GetBit(cur)` (R170): the block bit at the cursor, and the cursor moved by 1. DESIGN CHOICE (log 28): a read at bit
128 or above, for which R173 and U1 define no value and which no path issues, gives 0. -/
def getBit (blk : Block) (cur : Nat) : Bool × Nat :=
  (blk.getLsbD cur, cur + 1)

/-- `GetBits(cur, n)` (R171): the unsigned value of n block bits, first bit least significant, and the cursor moved by n.
DESIGN CHOICE (log 28): the bits of a read past bit 128, for which R173 and U1 define no value, and which no path issues,
are 0; and a width above 8 (R174) gives the same sum. -/
def getBits (blk : Block) (cur n : Nat) : Nat × Nat :=
  ((blk.toNat >>> cur) % 2 ^ n, cur + n)

/-- Consecutive `GetBits` of the given widths: the values in order, and the cursor after the last. -/
def getList (blk : Block) : Nat → List Nat → List Nat × Nat
  | cur, [] => ([], cur)
  | cur, n :: ns => ((getBits blk cur n).1 :: (getList blk (cur + n) ns).1, (getList blk (cur + n) ns).2)

/-- The bits of a field of width n, least significant first: the order R171 reads them in. -/
def ofField (n v : Nat) : List Bool :=
  (List.range n).map fun j => v.testBit j

/-- The bits of consecutive fields, each of its own width. -/
def ofFields : List Nat → List Nat → List Bool
  | n :: ns, v :: vs => ofField n v ++ ofFields ns vs
  | _, _ => []

/-- The number whose bit k is the k-th of the list (R80). -/
def toNat : List Bool → Nat
  | [] => 0
  | b :: bs => b.toNat + 2 * toNat bs

/-- The block whose bit k is the k-th of the list (R6, R80). -/
def toBlock (bs : List Bool) : Block :=
  BitVec.ofNat 128 (toNat bs)

end Bits

/-- The number of a byte sequence, the first byte least significant (R80). -/
def bytesToNat : List Byte → Nat
  | [] => 0
  | b :: bs => b.toNat + 256 * bytesToNat bs

/-- The block of 16 bytes in address order (R80). -/
def blockOfBytes (bs : List Byte) : Block :=
  BitVec.ofNat 128 (bytesToNat (bs.take 16))

/-- The n bytes of a number, least significant first. -/
def bytesOfNat : Nat → Nat → List Byte
  | 0, _ => []
  | n + 1, v => BitVec.ofNat 8 v :: bytesOfNat n (v / 256)

/-- The 16 bytes of a block in address order (R80). -/
def bytesOfBlock (b : Block) : List Byte :=
  bytesOfNat 16 b.toNat

/-! ### BC6H header layouts -/

/-- The field tags of a BC6H header (R113): the mode bits, the shape, and the channel of each endpoint w, x, y, z. -/
inductive Bc6hTag where
  | m
  | d
  | rW
  | gW
  | bW
  | rX
  | gX
  | bX
  | rY
  | gY
  | bY
  | rZ
  | gZ
  | bZ
deriving DecidableEq, Repr

/-- A run `f[first:last]` of the established notation (R6): ascending from bit `last` when `first ≥ last`, else
descending from bit `last`. -/
structure Bc6hRun where
  tag : Bc6hTag
  first : Nat
  last : Nat
deriving DecidableEq, Repr

/-- The (field, bit) pairs of a run in block-bit order (R6). -/
def Bc6hRun.entries (r : Bc6hRun) : List (Bc6hTag × Nat) :=
  if r.last ≤ r.first then (List.range (r.first - r.last + 1)).map fun k => (r.tag, r.last + k)
  else (List.range (r.last - r.first + 1)).map fun k => (r.tag, r.last - k)

/-- R114: mode M1, code 0x00, the established-notation line, block bit 0 first (82 bits). -/
def descM1 : List Bc6hRun :=
  [⟨.m, 1, 0⟩, ⟨.gY, 4, 4⟩, ⟨.bY, 4, 4⟩, ⟨.bZ, 4, 4⟩, ⟨.rW, 9, 0⟩, ⟨.gW, 9, 0⟩, ⟨.bW, 9, 0⟩, ⟨.rX, 4, 0⟩,
   ⟨.gZ, 4, 4⟩, ⟨.gY, 3, 0⟩, ⟨.gX, 4, 0⟩, ⟨.bZ, 0, 0⟩, ⟨.gZ, 3, 0⟩, ⟨.bX, 4, 0⟩, ⟨.bZ, 1, 1⟩, ⟨.bY, 3, 0⟩,
   ⟨.rY, 4, 0⟩, ⟨.bZ, 2, 2⟩, ⟨.rZ, 4, 0⟩, ⟨.bZ, 3, 3⟩, ⟨.d, 4, 0⟩]

/-- R115: mode M2, code 0x01, the established-notation line, block bit 0 first (82 bits). -/
def descM2 : List Bc6hRun :=
  [⟨.m, 1, 0⟩, ⟨.gY, 5, 5⟩, ⟨.gZ, 4, 4⟩, ⟨.gZ, 5, 5⟩, ⟨.rW, 6, 0⟩, ⟨.bZ, 0, 0⟩, ⟨.bZ, 1, 1⟩, ⟨.bY, 4, 4⟩,
   ⟨.gW, 6, 0⟩, ⟨.bY, 5, 5⟩, ⟨.bZ, 2, 2⟩, ⟨.gY, 4, 4⟩, ⟨.bW, 6, 0⟩, ⟨.bZ, 3, 3⟩, ⟨.bZ, 5, 5⟩, ⟨.bZ, 4, 4⟩,
   ⟨.rX, 5, 0⟩, ⟨.gY, 3, 0⟩, ⟨.gX, 5, 0⟩, ⟨.gZ, 3, 0⟩, ⟨.bX, 5, 0⟩, ⟨.bY, 3, 0⟩, ⟨.rY, 5, 0⟩, ⟨.rZ, 5, 0⟩,
   ⟨.d, 4, 0⟩]

/-- R116: mode M3, code 0x02, the established-notation line, block bit 0 first (82 bits). -/
def descM3 : List Bc6hRun :=
  [⟨.m, 4, 0⟩, ⟨.rW, 9, 0⟩, ⟨.gW, 9, 0⟩, ⟨.bW, 9, 0⟩, ⟨.rX, 4, 0⟩, ⟨.rW, 10, 10⟩, ⟨.gY, 3, 0⟩, ⟨.gX, 3, 0⟩,
   ⟨.gW, 10, 10⟩, ⟨.bZ, 0, 0⟩, ⟨.gZ, 3, 0⟩, ⟨.bX, 3, 0⟩, ⟨.bW, 10, 10⟩, ⟨.bZ, 1, 1⟩, ⟨.bY, 3, 0⟩, ⟨.rY, 4, 0⟩,
   ⟨.bZ, 2, 2⟩, ⟨.rZ, 4, 0⟩, ⟨.bZ, 3, 3⟩, ⟨.d, 4, 0⟩]

/-- R117: mode M4, code 0x06, the established-notation line, block bit 0 first (82 bits). -/
def descM4 : List Bc6hRun :=
  [⟨.m, 4, 0⟩, ⟨.rW, 9, 0⟩, ⟨.gW, 9, 0⟩, ⟨.bW, 9, 0⟩, ⟨.rX, 3, 0⟩, ⟨.rW, 10, 10⟩, ⟨.gZ, 4, 4⟩, ⟨.gY, 3, 0⟩,
   ⟨.gX, 4, 0⟩, ⟨.gW, 10, 10⟩, ⟨.gZ, 3, 0⟩, ⟨.bX, 3, 0⟩, ⟨.bW, 10, 10⟩, ⟨.bZ, 1, 1⟩, ⟨.bY, 3, 0⟩, ⟨.rY, 3, 0⟩,
   ⟨.bZ, 0, 0⟩, ⟨.bZ, 2, 2⟩, ⟨.rZ, 3, 0⟩, ⟨.gY, 4, 4⟩, ⟨.bZ, 3, 3⟩, ⟨.d, 4, 0⟩]

/-- R118: mode M5, code 0x0A, the established-notation line, block bit 0 first (82 bits). -/
def descM5 : List Bc6hRun :=
  [⟨.m, 4, 0⟩, ⟨.rW, 9, 0⟩, ⟨.gW, 9, 0⟩, ⟨.bW, 9, 0⟩, ⟨.rX, 3, 0⟩, ⟨.rW, 10, 10⟩, ⟨.bY, 4, 4⟩, ⟨.gY, 3, 0⟩,
   ⟨.gX, 3, 0⟩, ⟨.gW, 10, 10⟩, ⟨.bZ, 0, 0⟩, ⟨.gZ, 3, 0⟩, ⟨.bX, 4, 0⟩, ⟨.bW, 10, 10⟩, ⟨.bY, 3, 0⟩, ⟨.rY, 3, 0⟩,
   ⟨.bZ, 1, 1⟩, ⟨.bZ, 2, 2⟩, ⟨.rZ, 3, 0⟩, ⟨.bZ, 4, 4⟩, ⟨.bZ, 3, 3⟩, ⟨.d, 4, 0⟩]

/-- R119: mode M6, code 0x0E, the established-notation line, block bit 0 first (82 bits). -/
def descM6 : List Bc6hRun :=
  [⟨.m, 4, 0⟩, ⟨.rW, 8, 0⟩, ⟨.bY, 4, 4⟩, ⟨.gW, 8, 0⟩, ⟨.gY, 4, 4⟩, ⟨.bW, 8, 0⟩, ⟨.bZ, 4, 4⟩, ⟨.rX, 4, 0⟩,
   ⟨.gZ, 4, 4⟩, ⟨.gY, 3, 0⟩, ⟨.gX, 4, 0⟩, ⟨.bZ, 0, 0⟩, ⟨.gZ, 3, 0⟩, ⟨.bX, 4, 0⟩, ⟨.bZ, 1, 1⟩, ⟨.bY, 3, 0⟩,
   ⟨.rY, 4, 0⟩, ⟨.bZ, 2, 2⟩, ⟨.rZ, 4, 0⟩, ⟨.bZ, 3, 3⟩, ⟨.d, 4, 0⟩]

/-- R120: mode M7, code 0x12, the established-notation line, block bit 0 first (82 bits). -/
def descM7 : List Bc6hRun :=
  [⟨.m, 4, 0⟩, ⟨.rW, 7, 0⟩, ⟨.gZ, 4, 4⟩, ⟨.bY, 4, 4⟩, ⟨.gW, 7, 0⟩, ⟨.bZ, 2, 2⟩, ⟨.gY, 4, 4⟩, ⟨.bW, 7, 0⟩,
   ⟨.bZ, 3, 3⟩, ⟨.bZ, 4, 4⟩, ⟨.rX, 5, 0⟩, ⟨.gY, 3, 0⟩, ⟨.gX, 4, 0⟩, ⟨.bZ, 0, 0⟩, ⟨.gZ, 3, 0⟩, ⟨.bX, 4, 0⟩,
   ⟨.bZ, 1, 1⟩, ⟨.bY, 3, 0⟩, ⟨.rY, 5, 0⟩, ⟨.rZ, 5, 0⟩, ⟨.d, 4, 0⟩]

/-- R121: mode M8, code 0x16, the established-notation line, block bit 0 first (82 bits). -/
def descM8 : List Bc6hRun :=
  [⟨.m, 4, 0⟩, ⟨.rW, 7, 0⟩, ⟨.bZ, 0, 0⟩, ⟨.bY, 4, 4⟩, ⟨.gW, 7, 0⟩, ⟨.gY, 5, 5⟩, ⟨.gY, 4, 4⟩, ⟨.bW, 7, 0⟩,
   ⟨.gZ, 5, 5⟩, ⟨.bZ, 4, 4⟩, ⟨.rX, 4, 0⟩, ⟨.gZ, 4, 4⟩, ⟨.gY, 3, 0⟩, ⟨.gX, 5, 0⟩, ⟨.gZ, 3, 0⟩, ⟨.bX, 4, 0⟩,
   ⟨.bZ, 1, 1⟩, ⟨.bY, 3, 0⟩, ⟨.rY, 4, 0⟩, ⟨.bZ, 2, 2⟩, ⟨.rZ, 4, 0⟩, ⟨.bZ, 3, 3⟩, ⟨.d, 4, 0⟩]

/-- R122: mode M9, code 0x1A, the established-notation line, block bit 0 first (82 bits). -/
def descM9 : List Bc6hRun :=
  [⟨.m, 4, 0⟩, ⟨.rW, 7, 0⟩, ⟨.bZ, 1, 1⟩, ⟨.bY, 4, 4⟩, ⟨.gW, 7, 0⟩, ⟨.bY, 5, 5⟩, ⟨.gY, 4, 4⟩, ⟨.bW, 7, 0⟩,
   ⟨.bZ, 5, 5⟩, ⟨.bZ, 4, 4⟩, ⟨.rX, 4, 0⟩, ⟨.gZ, 4, 4⟩, ⟨.gY, 3, 0⟩, ⟨.gX, 4, 0⟩, ⟨.bZ, 0, 0⟩, ⟨.gZ, 3, 0⟩,
   ⟨.bX, 5, 0⟩, ⟨.bY, 3, 0⟩, ⟨.rY, 4, 0⟩, ⟨.bZ, 2, 2⟩, ⟨.rZ, 4, 0⟩, ⟨.bZ, 3, 3⟩, ⟨.d, 4, 0⟩]

/-- R123: mode M10, code 0x1E, the established-notation line, block bit 0 first (82 bits). -/
def descM10 : List Bc6hRun :=
  [⟨.m, 4, 0⟩, ⟨.rW, 5, 0⟩, ⟨.gZ, 4, 4⟩, ⟨.bZ, 0, 0⟩, ⟨.bZ, 1, 1⟩, ⟨.bY, 4, 4⟩, ⟨.gW, 5, 0⟩, ⟨.gY, 5, 5⟩,
   ⟨.bY, 5, 5⟩, ⟨.bZ, 2, 2⟩, ⟨.gY, 4, 4⟩, ⟨.bW, 5, 0⟩, ⟨.gZ, 5, 5⟩, ⟨.bZ, 3, 3⟩, ⟨.bZ, 5, 5⟩, ⟨.bZ, 4, 4⟩,
   ⟨.rX, 5, 0⟩, ⟨.gY, 3, 0⟩, ⟨.gX, 5, 0⟩, ⟨.gZ, 3, 0⟩, ⟨.bX, 5, 0⟩, ⟨.bY, 3, 0⟩, ⟨.rY, 5, 0⟩, ⟨.rZ, 5, 0⟩,
   ⟨.d, 4, 0⟩]

/-- R124: mode M11, code 0x03, the established-notation line, block bit 0 first (65 bits). -/
def descM11 : List Bc6hRun :=
  [⟨.m, 4, 0⟩, ⟨.rW, 9, 0⟩, ⟨.gW, 9, 0⟩, ⟨.bW, 9, 0⟩, ⟨.rX, 9, 0⟩, ⟨.gX, 9, 0⟩, ⟨.bX, 9, 0⟩]

/-- R125: mode M12, code 0x07, the established-notation line, block bit 0 first (65 bits). -/
def descM12 : List Bc6hRun :=
  [⟨.m, 4, 0⟩, ⟨.rW, 9, 0⟩, ⟨.gW, 9, 0⟩, ⟨.bW, 9, 0⟩, ⟨.rX, 8, 0⟩, ⟨.rW, 10, 10⟩, ⟨.gX, 8, 0⟩, ⟨.gW, 10, 10⟩,
   ⟨.bX, 8, 0⟩, ⟨.bW, 10, 10⟩]

/-- R126: mode M13, code 0x0B, the established-notation line, block bit 0 first (65 bits). -/
def descM13 : List Bc6hRun :=
  [⟨.m, 4, 0⟩, ⟨.rW, 9, 0⟩, ⟨.gW, 9, 0⟩, ⟨.bW, 9, 0⟩, ⟨.rX, 7, 0⟩, ⟨.rW, 10, 11⟩, ⟨.gX, 7, 0⟩, ⟨.gW, 10, 11⟩,
   ⟨.bX, 7, 0⟩, ⟨.bW, 10, 11⟩]

/-- R127: mode M14, code 0x0F, the established-notation line, block bit 0 first (65 bits). -/
def descM14 : List Bc6hRun :=
  [⟨.m, 4, 0⟩, ⟨.rW, 9, 0⟩, ⟨.gW, 9, 0⟩, ⟨.bW, 9, 0⟩, ⟨.rX, 3, 0⟩, ⟨.rW, 10, 15⟩, ⟨.gX, 3, 0⟩, ⟨.gW, 10, 15⟩,
   ⟨.bX, 3, 0⟩, ⟨.bW, 10, 15⟩]

/-- The established-notation line of a BC6H mode by its code; no line for a code that is no valid mode. -/
def bc6hRuns (code : Nat) : List Bc6hRun :=
  match code with
  | 0x00 => descM1
  | 0x01 => descM2
  | 0x02 => descM3
  | 0x06 => descM4
  | 0x0A => descM5
  | 0x0E => descM6
  | 0x12 => descM7
  | 0x16 => descM8
  | 0x1A => descM9
  | 0x1E => descM10
  | 0x03 => descM11
  | 0x07 => descM12
  | 0x0B => descM13
  | 0x0F => descM14
  | _ => []

/-- `ROM.BC6H_DESC[code]` (R113): entry k names the destination of block bit k. -/
def bc6hDesc (code : Nat) : List (Bc6hTag × Nat) :=
  (bc6hRuns code).flatMap Bc6hRun.entries

/-- The length of a valid mode's header, 82 bits with two regions and 65 with one (R112, R130). -/
def bc6hHeaderBits (pc : Nat) : Nat :=
  if pc = 1 then 82 else 65

/-- The value of a header field; the mode bits are those of the code. -/
def Bc6hFields.get (code : Nat) (f : Bc6hFields) (t : Bc6hTag) : Nat :=
  match t with
  | .m => code
  | .d => f.d
  | .rW => f.w.r
  | .gW => f.w.g
  | .bW => f.w.b
  | .rX => f.x.r
  | .gX => f.x.g
  | .bX => f.x.b
  | .rY => f.y.r
  | .gY => f.y.g
  | .bY => f.y.b
  | .rZ => f.z.r
  | .gZ => f.z.g
  | .bZ => f.z.b

/-- `f <- f | (1 << j)` of the scatter loop (R113); an `m` entry is never scattered. -/
def Bc6hFields.setBit (f : Bc6hFields) (t : Bc6hTag) (j : Nat) : Bc6hFields :=
  match t with
  | .m => f
  | .d => { f with d := f.d ||| (1 <<< j) }
  | .rW => { f with w := { f.w with r := f.w.r ||| (1 <<< j) } }
  | .gW => { f with w := { f.w with g := f.w.g ||| (1 <<< j) } }
  | .bW => { f with w := { f.w with b := f.w.b ||| (1 <<< j) } }
  | .rX => { f with x := { f.x with r := f.x.r ||| (1 <<< j) } }
  | .gX => { f with x := { f.x with g := f.x.g ||| (1 <<< j) } }
  | .bX => { f with x := { f.x with b := f.x.b ||| (1 <<< j) } }
  | .rY => { f with y := { f.y with r := f.y.r ||| (1 <<< j) } }
  | .gY => { f with y := { f.y with g := f.y.g ||| (1 <<< j) } }
  | .bY => { f with y := { f.y with b := f.y.b ||| (1 <<< j) } }
  | .rZ => { f with z := { f.z with r := f.z.r ||| (1 <<< j) } }
  | .gZ => { f with z := { f.z with g := f.z.g ||| (1 <<< j) } }
  | .bZ => { f with z := { f.z with b := f.z.b ||| (1 <<< j) } }

/-- Every destination register at 0 (R113, R45). -/
def Bc6hFields.zero : Bc6hFields :=
  { w := ⟨0, 0, 0⟩, x := ⟨0, 0, 0⟩, y := ⟨0, 0, 0⟩, z := ⟨0, 0, 0⟩, d := 0, idx := [] }

/-- The scatter loop of R113 over the given descriptor entries, from the cursor on. -/
def scatter (blk : Block) : Nat → List (Bc6hTag × Nat) → Bc6hFields → Bc6hFields
  | _, [], f => f
  | cur, (t, j) :: es, f =>
    let (bit, cur') := Bits.getBit blk cur
    scatter blk cur' es (if bit then f.setBit t j else f)

/-! ### Block decoders -/

/-- The BC6H mode read (R111): the code, and the cursor after the prefix. -/
def bc6hModeRead (blk : Block) : Nat × Nat :=
  let (lo, cur) := Bits.getBits blk 0 2
  if lo = 0 ∨ lo = 1 then (lo, cur)
  else
    let (hi, cur') := Bits.getBits blk 2 3
    ((hi <<< 2) ||| lo, cur')

/-- The length of a BC6H code's prefix (R111, R112). -/
def bc6hPrefixBits (code : Nat) : Nat :=
  if code = 0 ∨ code = 1 then 2 else 5

/-- The fields of a block of a valid BC6H mode: the header by the scatter loop from the cursor (R202), then the index
section (R128). -/
def bc6hParse (code cur : Nat) (i : Bc6hInfo) (blk : Block) : Bc6hFields :=
  let f := scatter blk cur ((bc6hDesc code).drop cur) Bc6hFields.zero
  { f with idx := (Bits.getList blk (bc6hHeaderBits i.pc) (Rom.indexWidths i.pc f.d i.ib)).1 }

/-- The instruction of a valid BC6H mode code (R112). -/
def bc6hInstr (code : Nat) (signed : Bool) (layout : Layout) (f : Bc6hFields) : Except Reject Instr :=
  match code with
  | 0x00 => .ok (.bc6hM1 signed layout f)
  | 0x01 => .ok (.bc6hM2 signed layout f)
  | 0x02 => .ok (.bc6hM3 signed layout f)
  | 0x06 => .ok (.bc6hM4 signed layout f)
  | 0x0A => .ok (.bc6hM5 signed layout f)
  | 0x0E => .ok (.bc6hM6 signed layout f)
  | 0x12 => .ok (.bc6hM7 signed layout f)
  | 0x16 => .ok (.bc6hM8 signed layout f)
  | 0x1A => .ok (.bc6hM9 signed layout f)
  | 0x1E => .ok (.bc6hM10 signed layout f)
  | 0x03 => .ok (.bc6hM11 signed layout f)
  | 0x07 => .ok (.bc6hM12 signed layout f)
  | 0x0B => .ok (.bc6hM13 signed layout f)
  | 0x0F => .ok (.bc6hM14 signed layout f)
  | _ => .error .noSuchCode

/-- The instruction of a reserved BC6H code (R129 (1)): the rest of the block is ignored. -/
def bc6hReservedInstr (code : Nat) (signed : Bool) (layout : Layout) (rest : BitVec 123) : Except Reject Instr :=
  match code with
  | 0x13 => .ok (.bc6hReserved13 signed layout rest)
  | 0x17 => .ok (.bc6hReserved17 signed layout rest)
  | 0x1B => .ok (.bc6hReserved1B signed layout rest)
  | 0x1F => .ok (.bc6hReserved1F signed layout rest)
  | _ => .error .noSuchCode

/-- The BC6H block decoder (R111 to R130). -/
def decodeBc6hBlock (signed : Bool) (layout : Layout) (blk : Block) : Except Reject Instr :=
  let (code, cur) := bc6hModeRead blk
  match Rom.bc6hInfo code with
  | some i => bc6hInstr code signed layout (bc6hParse code cur i blk)
  | none => bc6hReservedInstr code signed layout (BitVec.ofNat 123 (blk.toNat >>> 5))

/-- The unary scan of R140 from mode `m`, with `k` modes left to try. -/
def bc7ModeScan (blk : Block) : Nat → Nat → Nat
  | _, 0 => 8
  | m, k + 1 => if (Bits.getBit blk m).1 then m else bc7ModeScan blk (m + 1) k

/-- The BC7 mode (R140): the position of the first set bit among block bits 0..7, else 8. -/
def bc7ModeRead (blk : Block) : Nat :=
  bc7ModeScan blk 0 8

/-- The endpoint channels' values put together endpoint by endpoint. -/
def rgbaList : List Nat → List Nat → List Nat → List Nat → List Rgba
  | r :: rs, g :: gs, b :: bs, a :: as => ⟨r, g, b, a⟩ :: rgbaList rs gs bs as
  | _, _, _, _ => []

/-- The fields of a block of a valid BC7 mode in the order of R141: shape, rotation, index mode, the channels
channel-major, the P-bits, the primary and the secondary indices. -/
def bc7Parse (mode : Nat) (i : Bc7Info) (blk : Block) : Bc7Fields :=
  let ne := 2 * (i.pc + 1)
  let (shape, c0) := Bits.getBits blk (mode + 1) i.pb
  let (rot, c1) := Bits.getBits blk c0 i.rb
  let (imode, c2) := Bits.getBits blk c1 i.imb
  let (rs, c3) := Bits.getList blk c2 (List.replicate ne i.prec.r)
  let (gs, c4) := Bits.getList blk c3 (List.replicate ne i.prec.g)
  let (bs, c5) := Bits.getList blk c4 (List.replicate ne i.prec.b)
  let (as, c6) := Bits.getList blk c5 (List.replicate ne i.prec.a)
  let (ps, c7) := Bits.getList blk c6 (List.replicate i.np 1)
  let (w1, c8) := Bits.getList blk c7 (Rom.indexWidths i.pc shape i.ip)
  let (w2, _) := Bits.getList blk c8 (Rom.secondaryWidths i.ip2)
  { shape := shape, rot := rot, imode := imode, ends := rgbaList rs gs bs as, pbits := ps, w1 := w1, w2 := w2 }

/-- The BC7 block decoder (R140 to R152). -/
def decodeBc7Block (blk : Block) : Instr :=
  let mode := bc7ModeRead blk
  match Rom.bc7Info mode with
  | none => .bc7Reserved (BitVec.ofNat 120 (blk.toNat >>> 8))
  | some i =>
    let f := bc7Parse mode i blk
    match mode with
    | 0 => .bc7Mode0 f
    | 1 => .bc7Mode1 f
    | 2 => .bc7Mode2 f
    | 3 => .bc7Mode3 f
    | 4 => .bc7Mode4 f
    | 5 => .bc7Mode5 f
    | 6 => .bc7Mode6 f
    | _ => .bc7Mode7 f

/-! ### Requests -/

/-- The layout of `CMD[4:3]` (R155). -/
def layoutOfCode (c : BitVec 2) : Layout :=
  match c with
  | 0b00#2 => .half3
  | 0b01#2 => .half4
  | 0b10#2 => .float3
  | 0b11#2 => .float4

/-- The code of a layout in `CMD[4:3]` (R155). -/
def codeOfLayout (l : Layout) : BitVec 2 :=
  match l with
  | .half3 => 0b00#2
  | .half4 => 0b01#2
  | .float3 => 0b10#2
  | .float4 => 0b11#2

/-- The command byte put together from its fields (R155, R159). -/
def cmdByte (scr : Bool) (layout : BitVec 2) (signed : Bool) (op : BitVec 2) : Byte :=
  (0b00#2 ++ BitVec.ofBool scr ++ layout ++ BitVec.ofBool signed ++ op : BitVec 8)

/-- The scratch buffer of LOAD and SAMPLE (R155, R157 (5)): the internal one when `scr = 1`, otherwise the caller's,
which the request has to name. -/
def scratchOperand (scr : Bool) (named : Option ScratchRef) : Except Reject (Option ScratchRef) :=
  if scr then .ok none
  else match named with
    | none => .error .noScratch
    | some r => .ok (some r)

/-- The request decoder (R155 to R157): the instruction, or the case of R157 that refuses the request. -/
def decodeRequest (cmd : Byte) (o : Operands) : Except Reject Instr :=
  let op := cmd.extractLsb' 0 2
  let signed := cmd.getLsbD 2
  let layout := cmd.extractLsb' 3 2
  let scr := cmd.getLsbD 5
  if cmd.extractLsb' 6 2 ≠ 0#2 then .error .reservedCmdBits
  else if op ≠ 0b00#2 ∧ cmd.extractLsb' 2 3 ≠ 0#3 then .error .misplacedField
  else match op with
    | 0b00#2 =>
      if scr then .error .scrOnDecode
      else if o.out.entries < 16 then .error .shortOutput
      else .ok (.decodeBc6h signed (layoutOfCode layout) o.blk o.out)
    | 0b01#2 =>
      if scr then .error .scrOnDecode
      else if o.out.entries < 16 then .error .shortOutput
      else .ok (.decodeBc7 o.blk o.out)
    | 0b10#2 => (scratchOperand scr o.scratch).map fun r => .load r o.smp o.coord o.sel
    | 0b11#2 => (scratchOperand scr o.scratch).map fun r => .sample r o.smp o.coord o.sel

/-! ### The decoder over bytes, and over encoded forms -/

/-- The decoder of any byte sequence in a given encoding space; a request's bytes are its command byte, and its operand
record stands beside it. -/
def decodeBytes (sp : Space) (o : Operands) (bs : List Byte) : Except Reject Instr :=
  match sp with
  | .request =>
    match bs with
    | [] => .error .shortBlock
    | cmd :: _ => decodeRequest cmd o
  | .bc6h signed layout =>
    if bs.length < 16 then .error .shortBlock else decodeBc6hBlock signed layout (blockOfBytes bs)
  | .bc7 => if bs.length < 16 then .error .shortBlock else .ok (decodeBc7Block (blockOfBytes bs))

/-- An instruction as the hardware meets it: a request with its operand record, or a block in one of the two formats. -/
inductive Encoded where
  | request (cmd : Byte) (o : Operands)
  | bc6h (signed : Bool) (layout : Layout) (blk : Block)
  | bc7 (blk : Block)
deriving DecidableEq, Repr

/-- The decoder over encoded forms. -/
def decode (e : Encoded) : Except Reject Instr :=
  match e with
  | .request cmd o => decodeRequest cmd o
  | .bc6h signed layout blk => decodeBc6hBlock signed layout blk
  | .bc7 blk => .ok (decodeBc7Block blk)

/-! ### The encoder -/

/-- An operand record of zeros that names no scratch buffer: an operand the operation does not read stands so. -/
def Operands.zero : Operands :=
  { blk := 0, out := ⟨0, 0⟩, scratch := none, smp := 0, coord := ⟨0, 0, 0⟩, sel := ⟨0, 0, 0⟩ }

/-- The block of a valid BC6H mode: the header bits by the mode's map, then the index section (R113, R128). -/
def encodeBc6h (code : Nat) (f : Bc6hFields) : Block :=
  match Rom.bc6hInfo code with
  | none => 0
  | some i =>
    Bits.toBlock (((bc6hDesc code).map fun e => (f.get code e.1).testBit e.2) ++
      Bits.ofFields (Rom.indexWidths i.pc f.d i.ib) f.idx)

/-- The block of a reserved BC6H code: the 5-bit prefix, then the ignored bits (R129). -/
def encodeBc6hReserved (code : BitVec 5) (rest : BitVec 123) : Block :=
  rest ++ code

/-- The block of a valid BC7 mode: the unary prefix, then the fields in the order of R141. -/
def encodeBc7 (mode : Nat) (f : Bc7Fields) : Block :=
  match Rom.bc7Info mode with
  | none => 0
  | some i =>
    let ne := 2 * (i.pc + 1)
    Bits.toBlock (Bits.ofField (mode + 1) (1 <<< mode) ++ Bits.ofField i.pb f.shape ++ Bits.ofField i.rb f.rot ++
      Bits.ofField i.imb f.imode ++ Bits.ofFields (List.replicate ne i.prec.r) (f.ends.map (·.r)) ++
      Bits.ofFields (List.replicate ne i.prec.g) (f.ends.map (·.g)) ++
      Bits.ofFields (List.replicate ne i.prec.b) (f.ends.map (·.b)) ++
      Bits.ofFields (List.replicate ne i.prec.a) (f.ends.map (·.a)) ++
      Bits.ofFields (List.replicate i.np 1) f.pbits ++
      Bits.ofFields (Rom.indexWidths i.pc f.shape i.ip) f.w1 ++ Bits.ofFields (Rom.secondaryWidths i.ip2) f.w2)

/-- The encoder: the request or the block of a well-formed instruction. -/
def encode (i : Instr) : Encoded :=
  match i with
  | .bc6hM1 s l f => .bc6h s l (encodeBc6h 0x00 f)
  | .bc6hM2 s l f => .bc6h s l (encodeBc6h 0x01 f)
  | .bc6hM3 s l f => .bc6h s l (encodeBc6h 0x02 f)
  | .bc6hM4 s l f => .bc6h s l (encodeBc6h 0x06 f)
  | .bc6hM5 s l f => .bc6h s l (encodeBc6h 0x0A f)
  | .bc6hM6 s l f => .bc6h s l (encodeBc6h 0x0E f)
  | .bc6hM7 s l f => .bc6h s l (encodeBc6h 0x12 f)
  | .bc6hM8 s l f => .bc6h s l (encodeBc6h 0x16 f)
  | .bc6hM9 s l f => .bc6h s l (encodeBc6h 0x1A f)
  | .bc6hM10 s l f => .bc6h s l (encodeBc6h 0x1E f)
  | .bc6hM11 s l f => .bc6h s l (encodeBc6h 0x03 f)
  | .bc6hM12 s l f => .bc6h s l (encodeBc6h 0x07 f)
  | .bc6hM13 s l f => .bc6h s l (encodeBc6h 0x0B f)
  | .bc6hM14 s l f => .bc6h s l (encodeBc6h 0x0F f)
  | .bc6hReserved13 s l r => .bc6h s l (encodeBc6hReserved 0x13#5 r)
  | .bc6hReserved17 s l r => .bc6h s l (encodeBc6hReserved 0x17#5 r)
  | .bc6hReserved1B s l r => .bc6h s l (encodeBc6hReserved 0x1B#5 r)
  | .bc6hReserved1F s l r => .bc6h s l (encodeBc6hReserved 0x1F#5 r)
  | .bc7Mode0 f => .bc7 (encodeBc7 0 f)
  | .bc7Mode1 f => .bc7 (encodeBc7 1 f)
  | .bc7Mode2 f => .bc7 (encodeBc7 2 f)
  | .bc7Mode3 f => .bc7 (encodeBc7 3 f)
  | .bc7Mode4 f => .bc7 (encodeBc7 4 f)
  | .bc7Mode5 f => .bc7 (encodeBc7 5 f)
  | .bc7Mode6 f => .bc7 (encodeBc7 6 f)
  | .bc7Mode7 f => .bc7 (encodeBc7 7 f)
  | .bc7Reserved r => .bc7 (r ++ 0#8)
  | .decodeBc6h s l blk out =>
    .request (cmdByte false (codeOfLayout l) s 0b00#2) { Operands.zero with blk := blk, out := out }
  | .decodeBc7 blk out => .request (cmdByte false 0 false 0b01#2) { Operands.zero with blk := blk, out := out }
  | .load scr smp texel sel =>
    .request (cmdByte scr.isNone 0 false 0b10#2)
      { Operands.zero with scratch := scr, smp := smp, coord := texel, sel := sel }
  | .sample scr smp uv sel =>
    .request (cmdByte scr.isNone 0 false 0b11#2)
      { Operands.zero with scratch := scr, smp := smp, coord := uv, sel := sel }

/-! ### Words of the opcode table

DESIGN CHOICE (log 17). The table's three encoding spaces all match on one byte, so a word alone does not say which
space it belongs to: 0x00 is the row of BC6H M1, of BC7 reserved and of DECODE_BC6H. -/

/-- The operand record that stands beside a table word: zeros, with the buffers R413 (3) asks a request to name. -/
def Operands.tableRecord : Operands :=
  { Operands.zero with out := ⟨0, 16⟩, scratch := some ⟨0, 16⟩ }

/-- What the request gives a BC6H block beside a table word: R160's form without suffixes, `decode.bc6h.u.half4`. -/
def tableBc6h : Space :=
  .bc6h false .half4

/-- The rows of the opcode table as (space, mask, match, fixed bits), the requests first. -/
def tableRows : List (Space × Nat × Nat × Nat) :=
  [(.request, 0xE3, 0x00, 5), (.request, 0xFF, 0x01, 8), (.request, 0xDF, 0x02, 7), (.request, 0xDF, 0x03, 7)] ++
  [(tableBc6h, 0x03, 0x00, 2), (tableBc6h, 0x03, 0x01, 2), (tableBc6h, 0x1F, 0x02, 5), (tableBc6h, 0x1F, 0x06, 5),
   (tableBc6h, 0x1F, 0x0A, 5), (tableBc6h, 0x1F, 0x0E, 5), (tableBc6h, 0x1F, 0x12, 5), (tableBc6h, 0x1F, 0x16, 5),
   (tableBc6h, 0x1F, 0x1A, 5), (tableBc6h, 0x1F, 0x1E, 5), (tableBc6h, 0x1F, 0x03, 5), (tableBc6h, 0x1F, 0x07, 5),
   (tableBc6h, 0x1F, 0x0B, 5), (tableBc6h, 0x1F, 0x0F, 5), (tableBc6h, 0x1F, 0x13, 5), (tableBc6h, 0x1F, 0x17, 5),
   (tableBc6h, 0x1F, 0x1B, 5), (tableBc6h, 0x1F, 0x1F, 5)] ++
  [(.bc7, 0x01, 0x01, 1), (.bc7, 0x03, 0x02, 2), (.bc7, 0x07, 0x04, 3), (.bc7, 0x0F, 0x08, 4), (.bc7, 0x1F, 0x10, 5),
   (.bc7, 0x3F, 0x20, 6), (.bc7, 0x7F, 0x40, 7), (.bc7, 0xFF, 0x80, 8), (.bc7, 0xFF, 0x00, 8)]

/-- The row of most fixed bits among those that match the word, the earliest on a tie. -/
def bestRow (w : Nat) : List (Space × Nat × Nat × Nat) → Option (Space × Nat)
  | [] => none
  | (sp, mask, mat, bits) :: rows =>
    match bestRow w rows with
    | none => if w &&& mask = mat then some (sp, bits) else none
    | some (sp', bits') => if w &&& mask = mat ∧ bits' ≤ bits then some (sp, bits) else some (sp', bits')

/-- The space a table word is read in: a word of more than a byte is a BC6H block's (only such rows have one); a word
that is a row's match with every other bit 0 is read as that row, a request's before a block's; any other word is read
as the row of most fixed bits. -/
def tableSpace (nbits w : Nat) : Space :=
  if 8 < nbits then tableBc6h
  else match tableRows.find? fun r => r.2.2.1 = w with
    | some r => r.1
    | none =>
      match bestRow (w % 256) tableRows with
      | some r => r.1
      | none => .request

/-- The 16 bytes of a table word, every bit above the table's bits 0. -/
def tableBytes (nbits w : Nat) : List Byte :=
  bytesOfNat 16 (w % 2 ^ nbits)

/-- The instruction the decoder reads from a word of the opcode table (log 17). -/
def decodeTableWord (nbits w : Nat) : Option Instr :=
  match decodeBytes (tableSpace nbits w) Operands.tableRecord (tableBytes nbits w) with
  | .ok i => some i
  | .error _ => none

end Sys2Proof
end

