-- ==== Sys2Proof/Machine/State.lean ====
section
/-! DEFINITION. The state: the working registers of each activation in progress (R30), the sampler bindings (R34), the
memories the unit reaches (R81), and the requests and results around them; the reasons a step can stop; the state after
reset (R45, R410). -/

namespace Sys2Proof.Machine

/-- Four signed channels r, g, b, a: an endpoint `E[r][e]` (R30). BC6H uses r, g, b. -/
structure Quad where
  r : Int
  g : Int
  b : Int
  a : Int
deriving DecidableEq, Repr, Inhabited

/-- One entry of an output buffer: a decoded texel in one of the layouts of R211, a BC7 texel (R273), or the sample an
`OtherDecoder` gives (R363). -/
inductive Texel where
  | half3 (r g b : Half)
  | half4 (r g b a : Half)
  | float3 (r g b : F32)
  | float4 (r g b a : F32)
  | rgba8 (r g b a : Byte)
  | other (s : Sample)
deriving DecidableEq, Repr, Inhabited

/-- The working registers of one activation (R30). `ends` holds `E[r][e]` in slot 2r + e; `out` holds the entries
written so far. -/
structure WorkRegs where
  cur : Nat
  code : Nat
  shape : Nat
  rot : Nat
  imode : Nat
  ends : List Quad
  pbits : List Nat
  w1 : List Nat
  w2 : List Nat
  out : List Texel
  status : Status
deriving DecidableEq, Repr, Inhabited

/-- The working registers at the start of an activation (R45, R411). `out` is unspecified until written and never
observed (U8): it starts with no entry written (log 14). -/
def WorkRegs.start : WorkRegs :=
  { cur := 0, code := 0, shape := 0, rot := 0, imode := 0, ends := List.replicate 6 ⟨0, 0, 0, 0⟩,
    pbits := List.replicate 6 0, w1 := List.replicate 16 0, w2 := List.replicate 16 0, out := [], status := .ok }

/-- The decoder an activation runs (R342): one of the two block decoders, or `OtherDecoder` for a format identifier. -/
inductive Fmt where
  | bc6h (signed : Bool) (layout : Layout)
  | bc7
  | other (format : Nat)
deriving DecidableEq, Repr, Inhabited

/-- One 2D surface of a texture: the arguments of `get2DSurfaceData` (R341). -/
structure SurfaceSel where
  slice : Word32
  face : Word32
  mip : Word32
  z : Word32
deriving DecidableEq, Repr, Inhabited

/-- Where an activation's result goes: a DECODE's output buffer, or, for LOAD and SAMPLE, the scratch buffer (`none`
the internal one), the number of entries to write, and the entry to return (R82, R84, R359). A LOAD or SAMPLE that failed
a check (R350 (a) to (d), (f)) selects no entry: it has no block, and returns the empty sample. -/
inductive Client where
  | decode (out : OutRef)
  | sampler (scratch : Option ScratchRef) (count : Nat) (entry : Option Nat)
deriving DecidableEq, Repr, Inhabited

/-- Where an activation's block was read: requester memory, or a surface span of a view (R81); `none` when a failed check
left none to read. -/
inductive Source where
  | none
  | mem (addr : Nat)
  | span (view : Nat) (sel : SurfaceSel) (off : Nat)
deriving DecidableEq, Repr, Inhabited

/-- How far an activation is (R419: any finite number of steps): its block is captured and the decode is to run, or the
decode has run and the result is to be returned. -/
inductive Phase where
  | decoding
  | returning
deriving DecidableEq, Repr, Inhabited

/-- One operation in progress (R30, R393): who issued it, its decoder, where its result goes, where its block was read,
the captured block (R416), its working registers, its phase, and whether another operation in progress shares its
buffer (R414). -/
structure Activation where
  requester : Nat
  fmt : Fmt
  client : Client
  src : Source
  bytes : List Byte
  regs : WorkRegs
  phase : Phase
  raced : Bool
deriving DecidableEq, Repr, Inhabited

/-- The texel extent of a mip level (R341). -/
structure Extent where
  w : Word32
  h : Word32
  d : Word32
deriving DecidableEq, Repr, Inhabited

/-- A texture view (R341): its format identifier, its `empty` flag, the extents it has by mip level, and the bytes of
the surfaces it has. The total functions of R341 are read off these in Machine/Operands.lean. -/
structure TextureView where
  format : Nat
  isEmpty : Bool
  extents : List (Word32 × Extent)
  surfaces : List (SurfaceSel × List Byte)
deriving DecidableEq, Repr, Inhabited

/-- The view of a sampler or a texture that does not exist: empty (log 6). -/
def TextureView.absent : TextureView :=
  { format := 0, isEmpty := true, extents := [], surfaces := [] }

/-- What an operation returns to its requester (R9, R420): a DECODE its status, a LOAD or SAMPLE its sample. -/
inductive Answer where
  | decoded (status : Status)
  | sampled (s : Sample)
deriving DecidableEq, Repr, Inhabited

/-- An answer with the requester it is for. -/
structure Result where
  requester : Nat
  answer : Answer
deriving DecidableEq, Repr, Inhabited

/-- What an agent other than the running operation does at a step (R2, R393, R412, R415; log 1). -/
inductive Event where
  /-- a requester issues the oldest request: its activation starts, and runs later -/
  | issue
  /-- the k-th activation in progress takes its next step -/
  | advance (k : Nat)
  /-- another agent writes a byte of requester memory (R415) -/
  | memWrite (addr : Nat) (b : Byte)
  /-- another agent writes a byte of a surface span (R415) -/
  | spanWrite (view : Nat) (sel : SurfaceSel) (off : Nat) (b : Byte)
  /-- the host creates a sampler bound to a view (R412) -/
  | createSampler (smp : Nat) (view : Nat)
deriving DecidableEq, Repr, Inhabited

/-- The state of the unit and of the memories it reaches. -/
structure State where
  /-- requester memory: block operands and output buffers (R81) -/
  mem : Sparse Byte
  /-- the entries of the scratch buffers (R343) -/
  scratch : Sparse Sample
  /-- the texture views (R341) -/
  views : Sparse TextureView
  /-- the view each sampler instance is bound to (R34) -/
  samplers : Sparse (Option Nat)
  /-- `formatKind` of each format identifier (R342) -/
  formats : Sparse Kind
  /-- the requests issued and not yet started, oldest first -/
  queue : List Request
  /-- the requester whose request the unit is taking (log 11) -/
  issuer : Nat
  /-- the operations in progress; the first is the one that runs (R393) -/
  active : List Activation
  /-- what the operations have returned, oldest first (log 11) -/
  results : List Result
  /-- which agent moves next; empty: the running operation, else the oldest request (log 1) -/
  agenda : List Event
  /-- how many free values have been drawn (log 12) -/
  freeCount : Nat
deriving DecidableEq, Repr, Inhabited

/-- The unit raises no exception, trap, fault or abort (R380). The one fault is the read the spec places outside the
contract of the bit cursor (R173; U1: `fault`). -/
inductive Fault where
  /-- Raised by the decode datapath on a captured block of fewer than 16 bytes, whose decoding would read past the
  block. No state of the invariant of Safety.lean has one. Safe: the machine stops. -/
  | readPastBlock
deriving DecidableEq, Repr

/-- The refusals. -/
inductive Refusal where
  /-- Raised by `exec` alone, for an instruction without a meaning: no arm is left so. Safe. -/
  | notModelled (mnemonic : String)
  /-- Raised by a block-mode instruction when no operation is in progress: a block is decoded only inside an activation
  (R30), and no step runs one outside. Safe (log 26). -/
  | noActivation
deriving DecidableEq, Repr

/-- The state after reset: nothing persists and no operation is in progress (R45, R410); the memories and tables list
nothing (log 25). -/
def State.reset : State :=
  { mem := [], scratch := [], views := [], samplers := [], formats := [], queue := [], issuer := 0, active := [],
    results := [], agenda := [], freeCount := 0 }

end Sys2Proof.Machine
end

