-- ==== Sys2Proof/Machine/Color.lean ====
section
/-! DEFINITION. The arithmetic of 43_color_helpers.md, on mathematical integers (R7). -/

namespace Sys2Proof.Machine.Color

/-- `Interp(a, b, w)` (R301): the division by 64 is floor. -/
def interp (a b : Int) (w : Nat) : Int :=
  (a * (64 - (w : Int)) + b * (w : Int) + 32) / 64

/-- `sext_n(v)` (R7, R302): the low n bits of v as an n-bit two's-complement value. -/
def sext (n : Nat) (v : Int) : Int :=
  v % (2 ^ n : Nat) - (2 ^ n : Nat) * ((v % (2 ^ n : Nat)) / (2 ^ (n - 1) : Nat))

/-- The unsigned BC6H curve (R303). -/
def unquantizeU (p c : Nat) : Nat :=
  if 15 ≤ p then c
  else if c = 0 then 0
  else if c = 2 ^ p - 1 then 0xFFFF
  else ((c <<< 16) + 0x8000) >>> p

/-- The magnitude part `u'` of the signed BC6H curve (R304), for a precision below 16. -/
def unquantizeMag (p m : Nat) : Nat :=
  if m = 0 then 0
  else if 2 ^ (p - 1) - 1 ≤ m then 0x7FFF
  else ((m <<< 15) + 0x4000) >>> (p - 1)

/-- The signed BC6H curve (R304). -/
def unquantizeS (p : Nat) (c : Int) : Int :=
  if 16 ≤ p then c
  else if c < 0 then -(unquantizeMag p c.natAbs : Int)
  else (unquantizeMag p c.natAbs : Int)

/-- `Unquantize(c, p, signed)` (R303, R304). -/
def unquantize (signed : Bool) (p : Nat) (c : Int) : Int :=
  if signed then unquantizeS p c else (unquantizeU p c.toNat : Int)

/-- `Finish(v, signed)` (R305). -/
def finish (signed : Bool) (v : Int) : Int :=
  if signed then (if v < 0 then -(((-v) * 31) / 32) else (v * 31) / 32) else (v * 31) / 64

/-- `ToHalf(f, signed)` (R306): the finished integer is the half's bit pattern, sign over magnitude. -/
def toHalf (signed : Bool) (f : Int) : Half :=
  if signed ∧ f < 0 then 0x8000#16 ||| BitVec.ofNat 16 f.natAbs else BitVec.ofNat 16 f.toNat

/-- The binary32 pattern of a sign, an 8-bit exponent and a 23-bit fraction (R307). -/
def packF32 (s : Bool) (e f : Nat) : F32 :=
  BitVec.ofBool s ++ BitVec.ofNat 8 e ++ BitVec.ofNat 23 f

/-- `H2F(h)` (R307): the exact widening of a half to binary32. -/
def h2f (h : Half) : F32 :=
  let s := h.getLsbD 15
  let e := (h.extractLsb' 10 5).toNat
  let f := (h.extractLsb' 0 10).toNat
  if e = 31 then packF32 s 0xFF (f <<< 13)
  else if e = 0 ∧ f = 0 then packF32 s 0 0
  else if e = 0 then packF32 s (Nat.log2 f + 103) (f <<< (23 - Nat.log2 f))
  else packF32 s (e + 112) (f <<< 13)

/-- `Unq8(c, p)` (R308): the BC7 bit-replication expansion. -/
def unq8 (c p : Nat) : Nat :=
  let c' := (c <<< (8 - p)) &&& 0xFF
  c' ||| (c' >>> p)

end Sys2Proof.Machine.Color
end

