-- ==== Sys2Proof/Machine/Flags.lean ====
section
/-! DEFINITION. The unit has no flags (R32); its only condition indicator is the decoder's status. Here are the guard that
decides it (R213, R274) and the fills that go with it (R212, R214, R262, R274). -/

namespace Sys2Proof.Machine

/-- `cur + n > 128` (R213, R274). -/
def overruns (cur n : Nat) : Bool :=
  decide (128 < cur + n)

/-- The guard before each of consecutive reads (R274): the cursor where the reading stopped, and whether every read
stayed within the block. -/
def guardReads : Nat → List Nat → Nat × Bool
  | cur, [] => (cur, true)
  | cur, n :: ns => if overruns cur n then (cur, false) else guardReads (cur + n) ns

/-- `fill(c)` (R8): c in all 16 output entries. -/
def fill (t : Texel) : List Texel :=
  List.replicate 16 t

/-- `SENTINEL_LDR`, and the fill of BC7's reserved mode: transparent black (R262, R274). -/
def transparentBlack : Texel :=
  .rgba8 0 0 0 0

end Sys2Proof.Machine
end

