-- ==== Sys2Proof/Machine/Float.lean ====
section
/-! DEFINITION. The binary32 arithmetic of SAMPLE (R345, R346, R347) and of SampleConvert (R366), exact and then rounded
to nearest, ties to even (R7). Every finite binary32 value is an integer multiple of 2^-149, and is held as that integer
(log 19). -/

namespace Sys2Proof.Machine.Fl32

/-- A binary32 value: finite, as a multiple of 2^-149; an infinity; or a NaN. -/
inductive FVal where
  | finite (n : Int)
  | inf (negative : Bool)
  | nan
deriving DecidableEq, Repr

/-- 1.0 in units of 2^-149. -/
def one : Nat := 1 <<< 149

/-- The multiple of 2^-149 that a finite non-negative binary32 pattern stands for. -/
def unitsOf (bits : Nat) : Nat :=
  let e := bits >>> 23
  let f := bits % 2 ^ 23
  if e = 0 then f else (f + 2 ^ 23) <<< (e - 1)

/-- The value of a binary32 pattern. -/
def ofBits (x : F32) : FVal :=
  let s := x.getLsbD 31
  let m := x.toNat % 2 ^ 31
  if m = 0x7F800000 then .inf s
  else if 0x7F800000 < m then .nan
  else .finite (if s then -(unitsOf m : Int) else (unitsOf m : Int))

/-- num / den rounded to the nearest integer, ties to even. -/
def divEven (num den : Nat) : Nat :=
  let q := num / den
  let r := num % den
  if den < 2 * r ∨ (2 * r = den ∧ q % 2 = 1) then q + 1 else q

/-- The binary32 pattern, without its sign, nearest to num / den (R7): subnormal below 2^23 units, infinity when it
rounds past the largest finite value. -/
def roundMag (num den : Nat) : Nat :=
  let units := (num <<< 149) / den
  let sh := if units < 2 ^ 24 then 0 else Nat.log2 units - 23
  min ((sh <<< 23) + divEven (num <<< 149) (den <<< sh)) 0x7F800000

/-- `fl32(num / den)` as a value (R7). -/
def fl32 (num : Int) (den : Nat) : FVal :=
  let m := roundMag num.natAbs den
  if m = 0x7F800000 then .inf (decide (num < 0))
  else .finite (if num < 0 then -(unitsOf m : Int) else (unitsOf m : Int))

/-- `Wrap(c)` (R345): the truncated integer part is taken off only from a component above 1.0. -/
def wrap (c : FVal) : FVal :=
  match c with
  | .finite n => if (one : Int) < n then .finite (n - n / (one : Int) * (one : Int)) else .finite n
  | .inf false => .nan
  | .inf true => .inf true
  | .nan => .nan

/-- `floor(fl32(fl32(fl32(e − 1) · c') + 0.5))` for a finite c' of n units (R346); `none` when t is not finite. -/
def scaled (e : Word32) (n : Int) : Option Int :=
  match fl32 ((e.toNat : Int) - 1) 1 with
  | .finite k =>
    match fl32 (k * n) (one * one) with
    | .finite p =>
      match fl32 (p + (1 <<< 148 : Nat)) one with
      | .finite t => some (t / (one : Int))
      | _ => none
    | _ => none
  | _ => none

/-- The texel coordinate of one component (R344, R346): `none` when it does not convert (R347). -/
def texelCoord (e : Word32) (c : F32) : Option Word32 :=
  match wrap (ofBits c) with
  | .finite n =>
    match scaled e n with
    | some t => if -2147483648 ≤ t ∧ t ≤ 2147483647 then some (BitVec.ofInt 32 t) else none
    | none => none
  | _ => none

/-- `fl32(c / 255)` of an 8-bit channel (R366). -/
def unorm8 (c : Byte) : F32 :=
  BitVec.ofNat 32 (roundMag c.toNat 255)

end Sys2Proof.Machine.Fl32
end

