-- ==== Sys2Proof/Machine/Operands.lean ====
section
/-! DEFINITION. The operand forms: output entries and their layouts (R211, R273, R366), buffers, the texture view's four
functions (R341), block geometry and block addressing (R342, R354, R356, R359). -/

namespace Sys2Proof.Machine

/-! ### Output entries -/

/-- `Layout(layout, (hr, hg, hb))` (R211). -/
def layoutTexel (layout : Layout) (hr hg hb : Half) : Texel :=
  match layout with
  | .half3 => .half3 hr hg hb
  | .half4 => .half4 hr hg hb 0x3C00#16
  | .float3 => .float3 (Color.h2f hr) (Color.h2f hg) (Color.h2f hb)
  | .float4 => .float4 (Color.h2f hr) (Color.h2f hg) (Color.h2f hb) 0x3F800000#32

/-- Opaque black: `SENTINEL_HDR`, and the fill of BC6H's reserved codes (R212, R214). -/
def opaqueBlack (layout : Layout) : Texel :=
  layoutTexel layout 0x0000#16 0x0000#16 0x0000#16

/-- `SampleConvert` (R366), the default. The sampler decodes BC6H with FLOAT4 only (R342); a BC6H entry of another
layout is never converted, and stands here as the same colour. -/
def sampleConvert (t : Texel) : Sample :=
  match t with
  | .half3 r g b => .f32x4 (Color.h2f r) (Color.h2f g) (Color.h2f b) 0x3F800000#32
  | .half4 r g b a => .f32x4 (Color.h2f r) (Color.h2f g) (Color.h2f b) (Color.h2f a)
  | .float3 r g b => .f32x4 r g b 0x3F800000#32
  | .float4 r g b a => .f32x4 r g b a
  | .rgba8 r g b a => .f32x4 (Fl32.unorm8 r) (Fl32.unorm8 g) (Fl32.unorm8 b) (Fl32.unorm8 a)
  | .other s => s

/-- The bytes of an entry in requester memory: the channels in order, each least significant byte first (log 4). An
`other` entry is never written there. -/
def Texel.bytes (t : Texel) : List Byte :=
  match t with
  | .half3 r g b => bytesOfNat 2 r.toNat ++ bytesOfNat 2 g.toNat ++ bytesOfNat 2 b.toNat
  | .half4 r g b a => bytesOfNat 2 r.toNat ++ bytesOfNat 2 g.toNat ++ bytesOfNat 2 b.toNat ++ bytesOfNat 2 a.toNat
  | .float3 r g b => bytesOfNat 4 r.toNat ++ bytesOfNat 4 g.toNat ++ bytesOfNat 4 b.toNat
  | .float4 r g b a => bytesOfNat 4 r.toNat ++ bytesOfNat 4 g.toNat ++ bytesOfNat 4 b.toNat ++ bytesOfNat 4 a.toNat
  | .rgba8 r g b a => [r, g, b, a]
  | .other _ => []

/-- The size in bytes of an output entry (R211, R273). -/
def Fmt.entryBytes (f : Fmt) : Nat :=
  match f with
  | .bc6h _ .half3 => 6
  | .bc6h _ .half4 => 8
  | .bc6h _ .float3 => 12
  | .bc6h _ .float4 => 16
  | .bc7 => 4
  | .other _ => 0

/-- The byte length of the 16 entries a DECODE writes (R86). -/
def Fmt.outBytes (f : Fmt) : Nat :=
  16 * f.entryBytes

/-! ### Buffers -/

/-- The capacity N of the scratch buffer: the caller's, or 144 for the internal one (R343). -/
def scratchCap (scr : Option ScratchRef) : Nat :=
  match scr with
  | some r => r.cap
  | none => Config.maxBlockTexels

/-- Two buffers, each given by its start and its length, start at one place, or one starts inside the other (R414; log 22).
So one of no entries, which R343 allows, is still the buffer that another request names from the same start. -/
def sameBuffer (a n b m : Nat) : Bool :=
  decide (a = b) || (decide (a < b + m) && decide (b < a + n))

/-- Two operations in progress use the same buffer (R414; log 22): the same output buffer, or the same scratch buffer of
their callers. -/
def Activation.shares (a b : Activation) : Bool :=
  match a.client, b.client with
  | .decode o, .decode o' => sameBuffer o.addr a.fmt.outBytes o'.addr b.fmt.outBytes
  | .sampler (some r) _ _, .sampler (some r') _ _ => sameBuffer r.base r.cap r'.base r'.cap
  | _, _ => false

/-! ### The texture view's functions (R341) -/

/-- The first value listed for a key. -/
def lookupKey {α β : Type} [DecidableEq α] (d : β) (k : α) : List (α × β) → β
  | [] => d
  | (k', v) :: l => if k = k' then v else lookupKey d k l

/-- `extent(mip)` (R341): (0, 0, 0) for a level the texture does not have. -/
def TextureView.extent (v : TextureView) (mip : Word32) : Extent :=
  lookupKey ⟨0, 0, 0⟩ mip v.extents

/-- `get2DSurfaceData(arraySlice, face, mip, zSlice)` (R341): the empty sequence for a combination the texture does not
have. -/
def TextureView.surface (v : TextureView) (sel : SurfaceSel) : List Byte :=
  lookupKey [] sel v.surfaces

/-- The view with one byte of a surface written by another agent (R415); an offset outside the span changes nothing. -/
def TextureView.setByte (v : TextureView) (sel : SurfaceSel) (off : Nat) (b : Byte) : TextureView :=
  { v with surfaces := v.surfaces.map fun e => if e.1 = sel then (e.1, e.2.set off b) else e }

/-! ### Geometry and block addressing -/

/-- The block geometry of a format (R342): extent, `blockTexelCount()` and block bytes. -/
structure Geometry where
  bw : Nat
  bh : Nat
  count : Nat
  bytes : Nat
deriving DecidableEq, Repr

/-- `Geometry(kind)` (R342, R363): `OtherDecoder` gives its own, an extent of at least one texel (log 8). -/
def geometry (k : Kind) (format : Nat) : Geometry :=
  match k with
  | .bc6hUf16 => ⟨4, 4, 16, 16⟩
  | .bc6hSf16 => ⟨4, 4, 16, 16⟩
  | .bc7 => ⟨4, 4, 16, 16⟩
  | .other =>
    let g := Config.otherBlock format
    ⟨max 1 g.bw, max 1 g.bh, max 1 g.bw * max 1 g.bh, g.bytes⟩

/-- The decoder the sampler invokes for a kind (R342). -/
def fmtOfKind (k : Kind) (format : Nat) : Fmt :=
  match k with
  | .bc6hUf16 => .bc6h false .float4
  | .bc6hSf16 => .bc6h true .float4
  | .bc7 => .bc7
  | .other => .other format

/-- One texel coordinate is in range (R354): `0 ≤ c < e`, c as i32 and e as u32. -/
def coordInRange (c e : Word32) : Bool :=
  decide (0 ≤ c.toInt) && decide (c.toInt < (e.toNat : Int))

/-- The texel range check (R354). -/
def texelInRange (t : Vec3) (e : Extent) : Bool :=
  coordInRange t.x e.w && coordInRange t.y e.h && coordInRange t.z e.d

/-- The byte offset of the block of texel (x, y) in a surface of width w (R356). -/
def blockOffset (g : Geometry) (w x y : Nat) : Nat :=
  g.bytes * (y / g.bh * ((w + g.bw - 1) / g.bw) + x / g.bw)

/-- The in-block index of texel (x, y) (R359). -/
def blockEntry (g : Geometry) (x y : Nat) : Nat :=
  y % g.bh * g.bw + x % g.bw

/-- `MemRead(span, off, n)` (R83): defined only inside the span. -/
def memRead (span : List Byte) (off n : Nat) : Option (List Byte) :=
  if off + n ≤ span.length then some ((span.drop off).take n) else none

end Sys2Proof.Machine
end

