-- ==== Sys2Proof/Machine/Ops.lean ====
section
/-! DEFINITION. The named operations over the memories and the activations. The unit has no exception to take and none to
return from (R380, R387, R388): its errors end in a status or in the empty sample. -/

namespace Sys2Proof

/-! ### Sparse memories -/

namespace Sparse

/-- The value at a key; a key that is not listed reads as `d`. -/
def read {β : Type} (d : β) : Sparse β → Nat → β
  | [], _ => d
  | (k, v) :: m, a => if a = k then v else read d m a

/-- The memory with one key written, in canonical form again. -/
def write {β : Type} [DecidableEq β] (d : β) : Sparse β → Nat → β → Sparse β
  | [], a, v => if v = d then [] else [(a, v)]
  | (k, w) :: m, a, v =>
    if a < k then (if v = d then (k, w) :: m else (a, v) :: (k, w) :: m)
    else if a = k then (if v = d then m else (a, v) :: m)
    else (k, w) :: write d m a v

/-- The canonical form from a lower bound on: keys strictly rising, and no entry equal to what an unlisted key reads
as. -/
def wfFrom {β : Type} [DecidableEq β] (d : β) : Nat → Sparse β → Bool
  | _, [] => true
  | lo, (k, v) :: m => decide (lo ≤ k) && decide (v ≠ d) && wfFrom d (k + 1) m

/-- The canonical form. -/
def wf {β : Type} [DecidableEq β] (d : β) (m : Sparse β) : Bool :=
  wfFrom d 0 m

end Sparse

namespace Machine

/-! ### Requester memory -/

namespace Memory

/-- What a byte of requester memory that nothing has written reads as: DESIGN CHOICE (log 3). -/
def unwritten : Byte := 0

/-- One byte of requester memory. -/
def read (m : Sparse Byte) (a : Nat) : Byte :=
  Sparse.read unwritten m a

/-- Requester memory with one byte written. -/
def write (m : Sparse Byte) (a : Nat) (b : Byte) : Sparse Byte :=
  Sparse.write unwritten m a b

/-- The canonical form of requester memory. -/
def wf (m : Sparse Byte) : Bool :=
  Sparse.wf unwritten m

/-- n bytes from an address on, at any alignment (R85). -/
def readBytes (m : Sparse Byte) (a n : Nat) : List Byte :=
  (List.range n).map fun k => read m (a + k)

end Memory

/-! ### Scratch buffers -/

namespace Scratch

/-- One entry of the scratch space; an entry nothing has written holds the empty sample (log 5). -/
def read (m : Sparse Sample) (a : Nat) : Sample :=
  Sparse.read Sample.none m a

/-- `ScratchWrite` (R84): one whole entry. -/
def write (m : Sparse Sample) (a : Nat) (s : Sample) : Sparse Sample :=
  Sparse.write Sample.none m a s

/-- The canonical form of the scratch space. -/
def wf (m : Sparse Sample) : Bool :=
  Sparse.wf Sample.none m

/-- Consecutive entries written in order. -/
def writeAll : Sparse Sample → Nat → List Sample → Sparse Sample
  | m, _, [] => m
  | m, a, s :: ss => writeAll (write m a s) (a + 1) ss

end Scratch

/-! ### Sampler bindings -/

/-- The view a sampler is bound to (R34); `none` for a sampler that was never created. -/
def State.binding (s : State) (smp : Nat) : Option Nat :=
  Sparse.read none s.samplers smp

/-- A texture view by its number. -/
def State.view (s : State) (v : Nat) : TextureView :=
  Sparse.read TextureView.absent s.views v

/-- `smp.view` (R344, R348); a sampler that was never created has the absent view (log 6). -/
def State.samplerView (s : State) (smp : Nat) : TextureView :=
  match s.binding smp with
  | none => TextureView.absent
  | some v => s.view v

/-- `formatKind` (R342); an unlisted identifier is OTHER (log 7). -/
def State.kindOf (s : State) (format : Nat) : Kind :=
  Sparse.read Kind.other s.formats format

/-! ### Bytes written while an operation reads them (R415) -/

/-- The byte of an activation's captured block that came from an address of requester memory; only a block still to be
decoded is still being read. -/
def Activation.memByte (addr : Nat) (a : Activation) : Option Nat :=
  match a.src, a.phase with
  | .mem base, .decoding => if base ≤ addr ∧ addr < base + a.bytes.length then some (addr - base) else none
  | _, _ => none

/-- The byte of an activation's captured block that came from an offset of a surface span. -/
def Activation.spanByte (view : Nat) (sel : SurfaceSel) (off : Nat) (a : Activation) : Option Nat :=
  match a.src, a.phase with
  | .span v s base, .decoding =>
    if v = view ∧ s = sel ∧ base ≤ off ∧ off < base + a.bytes.length then some (off - base) else none
  | _, _ => none

/-- A byte written while operations in progress read it: each reads the old or the new byte, a free choice each
(R415; log 13). -/
def disturb (hit : Activation → Option Nat) (b : Byte) : List Activation → Nat → List Activation × Nat
  | [], n => ([], n)
  | a :: as, n =>
    match hit a with
    | none => (a :: (disturb hit b as n).1, (disturb hit b as n).2)
    | some j =>
      let a' := if Config.freeChoice n then { a with bytes := a.bytes.set j b } else a
      (a' :: (disturb hit b as (n + 1)).1, (disturb hit b as (n + 1)).2)

/-- One byte of requester memory written. -/
def State.storeByte (s : State) (addr : Nat) (b : Byte) : State :=
  let d := disturb (Activation.memByte addr) b s.active s.freeCount
  { s with mem := Memory.write s.mem addr b, active := d.1, freeCount := d.2 }

/-- Consecutive bytes of requester memory written in order. -/
def State.storeBytes : State → Nat → List Byte → State
  | s, _, [] => s
  | s, a, b :: bs => State.storeBytes (s.storeByte a b) (a + 1) bs

/-- One byte of a surface span written by another agent. -/
def State.writeSpan (s : State) (view : Nat) (sel : SurfaceSel) (off : Nat) (b : Byte) : State :=
  let d := disturb (Activation.spanByte view sel off) b s.active s.freeCount
  { s with views := Sparse.write TextureView.absent s.views view ((s.view view).setByte sel off b),
           active := d.1, freeCount := d.2 }

/-- A sampler created by the host (R412): a sampler that exists keeps its binding. -/
def State.createSampler (s : State) (smp view : Nat) : State :=
  match s.binding smp with
  | some _ => s
  | none => { s with samplers := Sparse.write none s.samplers smp (some view) }

/-! ### Activations -/

/-- An answer returned to a requester (R420). -/
def State.answer (s : State) (requester : Nat) (x : Answer) : State :=
  { s with results := s.results ++ [⟨requester, x⟩] }

/-- An activation starts (R393) and becomes the one that runs; it and any operation in progress that uses the same
buffer are raced from here on (R414). -/
def State.begin (s : State) (a : Activation) : State :=
  { s with active := { a with raced := s.active.any a.shares } ::
      s.active.map fun b => if a.shares b then { b with raced := true } else b }

/-- The decode datapath of the running activation: its working registers are set, and its result is ready. -/
def State.decodeInto (s : State) (g : WorkRegs → WorkRegs) : Host.Outcome State Fault Refusal :=
  match s.active with
  | [] => .refused .noActivation
  | a :: rest => .next { s with active := { a with regs := g a.regs, phase := .returning } :: rest }

/-- n free bytes (R414). -/
def freeBytes (first n : Nat) : List Byte :=
  (List.range n).map fun k => Config.freeByte (first + k)

/-- n free samples (R414). -/
def freeSamples (first n : Nat) : List Sample :=
  (List.range n).map fun k => Config.freeSample (first + k)

/-- A DECODE returns (R420): its output entries are written and its status is returned. Of a raced one both are free
values (R414, D26). -/
def State.deliverDecode (s : State) (a : Activation) (out : OutRef) : State :=
  if a.raced then
    let n := a.fmt.outBytes
    State.answer
      (State.storeBytes { s with freeCount := s.freeCount + 1 + n } out.addr (freeBytes (s.freeCount + 1) n))
      a.requester (.decoded (Config.freeStatus s.freeCount))
  else (s.storeBytes out.addr (a.regs.out.flatMap Texel.bytes)).answer a.requester (.decoded a.regs.status)

/-- The scratch space after a LOAD or SAMPLE: the caller's entries are written, the internal buffer is discarded
(R343, R357). -/
def scratchAfter (m : Sparse Sample) (scr : Option ScratchRef) (samples : List Sample) : Sparse Sample :=
  match scr with
  | none => m
  | some r => Scratch.writeAll m r.base samples

/-- A LOAD or SAMPLE returns (R348, R357 to R359): its converted texels are written, and the selected entry is returned,
or the empty sample on ERROR. One that failed a check writes nothing and returns the empty sample (R350, R367). Of a raced
one, of either kind, the sample and the entries are free values (R414, D26; log 29). -/
def State.deliverSample (s : State) (a : Activation) (scr : Option ScratchRef) (count : Nat) (entry : Option Nat) :
    State :=
  if a.raced then
    State.answer { s with
      scratch := scratchAfter s.scratch scr (freeSamples (s.freeCount + 1) count),
      freeCount := s.freeCount + 1 + count } a.requester (.sampled (Config.freeSample s.freeCount))
  else
    match entry with
    | none => s.answer a.requester (.sampled .none)
    | some k =>
      let samples := a.regs.out.map sampleConvert
      State.answer { s with scratch := scratchAfter s.scratch scr samples } a.requester
        (.sampled (if a.regs.status = .error then .none else samples.getD k .none))

/-- An operation returns its result to its client: a DECODE's, or a LOAD's or SAMPLE's. -/
def State.deliverTo (s : State) (a : Activation) : State :=
  match a.client with
  | .decode out => s.deliverDecode a out
  | .sampler scr count entry => s.deliverSample a scr count entry

/-- The running activation returns and is discarded (R30, R420). -/
def State.deliver (s : State) : State :=
  match s.active with
  | [] => s
  | a :: rest => State.deliverTo { s with active := rest } a

end Machine

end Sys2Proof
end

