-- ==== Sys2Proof/Machine/Bc6h.lean ====
section
/-! DEFINITION. The BC6H decoder (R200 to R215) and the 18 BC6H block instructions: the modes M1 to M14 (R216 to R229) and
the reserved codes (R129, R212). -/

namespace Sys2Proof.Machine

namespace Bc6h

/-- An endpoint register with the stored, zero-extended values of its channels (R202). -/
def stored (v : Rgb) : Quad :=
  ⟨v.r, v.g, v.b, 0⟩

/-- `sext_{prec.ch}` of each channel (R203). -/
def signExtend (p : Rgb) (q : Quad) : Quad :=
  { q with r := Color.sext p.r q.r, g := Color.sext p.g q.g, b := Color.sext p.b q.b }

/-- One channel of the inverse transform at the base precision p (R204): `(e + base) & mask`, re-sign-extended when
signed. -/
def rebaseChannel (signed : Bool) (p : Nat) (base e : Int) : Int :=
  let sum := (e + base) % (2 ^ p : Nat)
  if signed then Color.sext p sum else sum

/-- The inverse transform of one endpoint (R204). -/
def rebase (signed : Bool) (p : Rgb) (base q : Quad) : Quad :=
  { q with r := rebaseChannel signed p.r base.r q.r, g := rebaseChannel signed p.g base.g q.g,
           b := rebaseChannel signed p.b base.b q.b }

/-- The base endpoint E0.A: sign-extended only when `signed = 1` (R203), never transformed (R204). -/
def base (i : Bc6hInfo) (signed : Bool) (v : Rgb) : Quad :=
  if signed then signExtend i.a0 (stored v) else stored v

/-- Another endpoint of region `region` (R203, R204): sign-extended at its own precision when the region is the mode's
and the mode is transformed or signed, then, in a transformed mode, rebased. -/
def relative (i : Bc6hInfo) (signed : Bool) (region : Nat) (p : Rgb) (e0a : Quad) (v : Rgb) : Quad :=
  let q := if region ≤ i.pc ∧ (signed ∨ i.tr) then signExtend p (stored v) else stored v
  if i.tr then rebase signed i.a0 e0a q else q

/-- The four endpoints E0.A, E0.B, E1.A, E1.B after R202 to R205. -/
def endpoints (i : Bc6hInfo) (signed : Bool) (f : Bc6hFields) : List Quad :=
  let e0a := base i signed f.w
  [e0a, relative i signed 0 i.b0 e0a f.x, relative i signed 1 i.a1 e0a f.y, relative i signed 1 i.b1 e0a f.z]

/-- One channel of a pixel (R208 to R210): unquantize at the base precision p, interpolate, finish, convert. -/
def channel (signed : Bool) (p ib idx : Nat) (a b : Int) : Half :=
  Color.toHalf signed
    (Color.finish signed
      (Color.interp (Color.unquantize signed p a) (Color.unquantize signed p b) (Rom.weight ib idx)))

/-- The texel of pixel k with index idx (R206 to R211). -/
def pixel (i : Bc6hInfo) (signed : Bool) (layout : Layout) (ends : List Quad) (shape k idx : Nat) : Texel :=
  let r := Rom.part i.pc shape k
  let a := ends.getD (2 * r) default
  let b := ends.getD (2 * r + 1) default
  layoutTexel layout (channel signed i.a0.r i.ib idx a.r b.r) (channel signed i.a0.g i.ib idx a.g b.g)
    (channel signed i.a0.b i.ib idx a.b b.b)

/-- The number of indices a mode has: 8 with two regions, 16 with one (R207). -/
def indexLimit (pc : Nat) : Nat :=
  if pc = 1 then 8 else 16

/-- The pixel loop of R200 from pixel k on, over the widths and the values of the index fields: the cursor where it
ended, and the texels, or `none` where a guard (R213) or the range check (R207) sent it to the sentinel path. -/
def pixels (limit : Nat) (px : Nat → Nat → Texel) : Nat → Nat → List Nat → List Nat → Nat × Option (List Texel)
  | cur, k, n :: ns, idx :: is =>
    if overruns cur n then (cur, none)
    else if limit ≤ idx then (cur + n, none)
    else ((pixels limit px (cur + n) (k + 1) ns is).1,
      ((pixels limit px (cur + n) (k + 1) ns is).2).map fun ts => px k idx :: ts)
  | cur, _, _, _ => (cur, some [])

/-- The working registers after DECODE_BC6H of a block of the given code (R200): a code without a record is reserved
(R212). -/
def run (code : Nat) (signed : Bool) (layout : Layout) (f : Bc6hFields) (r : WorkRegs) : WorkRegs :=
  match Rom.bc6hInfo code with
  | none => { r with cur := bc6hPrefixBits code, code := code, out := fill (opaqueBlack layout), status := .ok }
  | some i =>
    let ends := endpoints i signed f
    let idx := (List.range 16).map fun k => f.idx.getD k 0
    let ps := pixels (indexLimit i.pc) (pixel i signed layout ends f.d) (bc6hHeaderBits i.pc) 0
      (Rom.indexWidths i.pc f.d i.ib) idx
    let r' := { r with cur := ps.1, code := code, shape := f.d, ends := ends ++ r.ends.drop 4, w1 := idx }
    match ps.2 with
    | some ts => { r' with out := ts, status := .ok }
    | none => { r' with out := fill (opaqueBlack layout), status := .error }

/-- The working registers after DECODE_BC6H of a block of a reserved code: no bit past the prefix is read (R212). -/
def runReserved (code : Nat) (layout : Layout) (r : WorkRegs) : WorkRegs :=
  { r with cur := bc6hPrefixBits code, code := code, out := fill (opaqueBlack layout), status := .ok }

end Bc6h

/-- Mode M1 (R216). -/
def execBc6hM1 (signed : Bool) (layout : Layout) (f : Bc6hFields) (s : State) : Host.Outcome State Fault Refusal :=
  s.decodeInto (Bc6h.run 0x00 signed layout f)

/-- Mode M2 (R217). -/
def execBc6hM2 (signed : Bool) (layout : Layout) (f : Bc6hFields) (s : State) : Host.Outcome State Fault Refusal :=
  s.decodeInto (Bc6h.run 0x01 signed layout f)

/-- Mode M3 (R218). -/
def execBc6hM3 (signed : Bool) (layout : Layout) (f : Bc6hFields) (s : State) : Host.Outcome State Fault Refusal :=
  s.decodeInto (Bc6h.run 0x02 signed layout f)

/-- Mode M4 (R219). -/
def execBc6hM4 (signed : Bool) (layout : Layout) (f : Bc6hFields) (s : State) : Host.Outcome State Fault Refusal :=
  s.decodeInto (Bc6h.run 0x06 signed layout f)

/-- Mode M5 (R220). -/
def execBc6hM5 (signed : Bool) (layout : Layout) (f : Bc6hFields) (s : State) : Host.Outcome State Fault Refusal :=
  s.decodeInto (Bc6h.run 0x0A signed layout f)

/-- Mode M6 (R221). -/
def execBc6hM6 (signed : Bool) (layout : Layout) (f : Bc6hFields) (s : State) : Host.Outcome State Fault Refusal :=
  s.decodeInto (Bc6h.run 0x0E signed layout f)

/-- Mode M7 (R222). -/
def execBc6hM7 (signed : Bool) (layout : Layout) (f : Bc6hFields) (s : State) : Host.Outcome State Fault Refusal :=
  s.decodeInto (Bc6h.run 0x12 signed layout f)

/-- Mode M8 (R223). -/
def execBc6hM8 (signed : Bool) (layout : Layout) (f : Bc6hFields) (s : State) : Host.Outcome State Fault Refusal :=
  s.decodeInto (Bc6h.run 0x16 signed layout f)

/-- Mode M9 (R224). -/
def execBc6hM9 (signed : Bool) (layout : Layout) (f : Bc6hFields) (s : State) : Host.Outcome State Fault Refusal :=
  s.decodeInto (Bc6h.run 0x1A signed layout f)

/-- Mode M10 (R225). -/
def execBc6hM10 (signed : Bool) (layout : Layout) (f : Bc6hFields) (s : State) : Host.Outcome State Fault Refusal :=
  s.decodeInto (Bc6h.run 0x1E signed layout f)

/-- Mode M11 (R226). -/
def execBc6hM11 (signed : Bool) (layout : Layout) (f : Bc6hFields) (s : State) : Host.Outcome State Fault Refusal :=
  s.decodeInto (Bc6h.run 0x03 signed layout f)

/-- Mode M12 (R227). -/
def execBc6hM12 (signed : Bool) (layout : Layout) (f : Bc6hFields) (s : State) : Host.Outcome State Fault Refusal :=
  s.decodeInto (Bc6h.run 0x07 signed layout f)

/-- Mode M13 (R228). -/
def execBc6hM13 (signed : Bool) (layout : Layout) (f : Bc6hFields) (s : State) : Host.Outcome State Fault Refusal :=
  s.decodeInto (Bc6h.run 0x0B signed layout f)

/-- Mode M14 (R229). -/
def execBc6hM14 (signed : Bool) (layout : Layout) (f : Bc6hFields) (s : State) : Host.Outcome State Fault Refusal :=
  s.decodeInto (Bc6h.run 0x0F signed layout f)

/-- The reserved code 0x13 (R129, R212): the same for every `signed` and every ignored bit. -/
def execBc6hReserved13 (_signed : Bool) (layout : Layout) (_ignored : BitVec 123) (s : State) :
    Host.Outcome State Fault Refusal :=
  s.decodeInto (Bc6h.runReserved 0x13 layout)

/-- The reserved code 0x17 (R129, R212): the same for every `signed` and every ignored bit. -/
def execBc6hReserved17 (_signed : Bool) (layout : Layout) (_ignored : BitVec 123) (s : State) :
    Host.Outcome State Fault Refusal :=
  s.decodeInto (Bc6h.runReserved 0x17 layout)

/-- The reserved code 0x1B (R129, R212): the same for every `signed` and every ignored bit. -/
def execBc6hReserved1B (_signed : Bool) (layout : Layout) (_ignored : BitVec 123) (s : State) :
    Host.Outcome State Fault Refusal :=
  s.decodeInto (Bc6h.runReserved 0x1B layout)

/-- The reserved code 0x1F (R129, R212): the same for every `signed` and every ignored bit. -/
def execBc6hReserved1F (_signed : Bool) (layout : Layout) (_ignored : BitVec 123) (s : State) :
    Host.Outcome State Fault Refusal :=
  s.decodeInto (Bc6h.runReserved 0x1F layout)

end Sys2Proof.Machine
end

