-- ==== Sys2Proof/Machine/Bc7.lean ====
section
/-! DEFINITION. The BC7 decoder (R260 to R275) and the 9 BC7 block instructions: the modes 0 to 7 (R276 to R283) and the
reserved mode (R150, R262). -/

namespace Sys2Proof.Machine

namespace Bc7

/-- The widths of the fields a mode reads after its prefix, in order (R263 to R265, R268, R269). A channel of precision
0 is not read. -/
def fieldWidths (i : Bc7Info) (shape : Nat) : List Nat :=
  let ne := 2 * (i.pc + 1)
  [i.pb, i.rb, i.imb] ++ List.replicate ne i.prec.r ++ List.replicate ne i.prec.g ++ List.replicate ne i.prec.b ++
    (if i.prec.a = 0 then [] else List.replicate ne i.prec.a) ++ List.replicate i.np 1 ++
    Rom.indexWidths i.pc shape i.ip ++ Rom.secondaryWidths i.ip2

/-- One endpoint channel expanded to 8 bits (R264, R266, R267): the P-bit is appended where the precisions differ; an
absent alpha is 255. -/
def endpointChannel (prec precP pbit c : Nat) : Nat :=
  let c0 := if prec = 0 then 255 else c
  let c1 := if precP = prec then c0 else (c0 <<< 1) ||| pbit
  if precP = 0 then 255 else Color.unq8 c1 precP

/-- Endpoint e of the block (R264 to R267): its P-bit is `P[⌊e · np / NE⌋]`. -/
def endpoint (i : Bc7Info) (f : Bc7Fields) (e : Nat) : Quad :=
  let v := f.ends.getD e default
  let p := f.pbits.getD (e * i.np / (2 * (i.pc + 1))) 0
  ⟨endpointChannel i.prec.r i.precP.r p v.r, endpointChannel i.prec.g i.precP.g p v.g,
    endpointChannel i.prec.b i.precP.b p v.b, endpointChannel i.prec.a i.precP.a p v.a⟩

/-- `Select` (R270): the color index with its precision, then the alpha index with its precision. -/
def select (i : Bc7Info) (imode w1 w2 : Nat) : (Nat × Nat) × (Nat × Nat) :=
  if i.ip2 = 0 then ((w1, i.ip), (w1, i.ip))
  else if imode = 0 then ((w1, i.ip), (w2, i.ip2))
  else ((w2, i.ip2), (w1, i.ip))

/-- `Rotate` (R272). -/
def rotate (rot : Nat) (q : Quad) : Quad :=
  match rot with
  | 1 => { q with r := q.a, a := q.r }
  | 2 => { q with g := q.a, a := q.g }
  | 3 => { q with b := q.a, a := q.b }
  | _ => q

/-- The output texel of four channels in 0..255 (R273). -/
def texel (q : Quad) : Texel :=
  .rgba8 (BitVec.ofInt 8 q.r) (BitVec.ofInt 8 q.g) (BitVec.ofInt 8 q.b) (BitVec.ofInt 8 q.a)

/-- The texel of pixel k (R270 to R273), from the block's endpoints. -/
def pixel (i : Bc7Info) (ends : List Quad) (shape rot imode k w1 w2 : Nat) : Texel :=
  let r := Rom.part i.pc shape k
  let a := ends.getD (2 * r) default
  let b := ends.getD (2 * r + 1) default
  let sel := select i imode w1 w2
  let wc := Rom.weight sel.1.2 sel.1.1
  let wa := Rom.weight sel.2.2 sel.2.1
  texel (rotate rot
    ⟨Color.interp a.r b.r wc, Color.interp a.g b.g wc, Color.interp a.b b.b wc, Color.interp a.a b.a wa⟩)

/-- The working registers after DECODE_BC7 of a block of the reserved mode: no bit beyond bit 7 is read (R262). -/
def runReserved (r : WorkRegs) : WorkRegs :=
  { r with cur := 8, code := 8, out := fill transparentBlack, status := .ok }

/-- The working registers after DECODE_BC7 of a block of the given mode (R260); a mode without a record is reserved
(R262). -/
def run (mode : Nat) (f : Bc7Fields) (r : WorkRegs) : WorkRegs :=
  match Rom.bc7Info mode with
  | none => runReserved r
  | some i =>
    let ne := 2 * (i.pc + 1)
    let ends := (List.range ne).map (endpoint i f)
    let w1 := (List.range 16).map fun k => f.w1.getD k 0
    let w2 := (List.range 16).map fun k => f.w2.getD k 0
    let g := guardReads (mode + 1) (fieldWidths i f.shape)
    let r' := { r with
      cur := g.1, code := mode, shape := f.shape, rot := f.rot, imode := f.imode, ends := ends ++ r.ends.drop ne,
      pbits := (List.range 6).map (fun j => f.pbits.getD j 0), w1 := w1, w2 := w2 }
    if g.2 then
      { r' with
        out := (List.range 16).map fun k => pixel i ends f.shape f.rot f.imode k (w1.getD k 0) (w2.getD k 0),
        status := .ok }
    else { r' with out := fill transparentBlack, status := .error }

end Bc7

/-- Mode 0 (R276). -/
def execBc7Mode0 (f : Bc7Fields) (s : State) : Host.Outcome State Fault Refusal :=
  s.decodeInto (Bc7.run 0 f)

/-- Mode 1 (R277). -/
def execBc7Mode1 (f : Bc7Fields) (s : State) : Host.Outcome State Fault Refusal :=
  s.decodeInto (Bc7.run 1 f)

/-- Mode 2 (R278). -/
def execBc7Mode2 (f : Bc7Fields) (s : State) : Host.Outcome State Fault Refusal :=
  s.decodeInto (Bc7.run 2 f)

/-- Mode 3 (R279). -/
def execBc7Mode3 (f : Bc7Fields) (s : State) : Host.Outcome State Fault Refusal :=
  s.decodeInto (Bc7.run 3 f)

/-- Mode 4 (R280). -/
def execBc7Mode4 (f : Bc7Fields) (s : State) : Host.Outcome State Fault Refusal :=
  s.decodeInto (Bc7.run 4 f)

/-- Mode 5 (R281). -/
def execBc7Mode5 (f : Bc7Fields) (s : State) : Host.Outcome State Fault Refusal :=
  s.decodeInto (Bc7.run 5 f)

/-- Mode 6 (R282). -/
def execBc7Mode6 (f : Bc7Fields) (s : State) : Host.Outcome State Fault Refusal :=
  s.decodeInto (Bc7.run 6 f)

/-- Mode 7 (R283). -/
def execBc7Mode7 (f : Bc7Fields) (s : State) : Host.Outcome State Fault Refusal :=
  s.decodeInto (Bc7.run 7 f)

/-- The reserved mode 8 (R150, R262): the same for every ignored bit. -/
def execBc7Reserved (_ignored : BitVec 120) (s : State) : Host.Outcome State Fault Refusal :=
  s.decodeInto Bc7.runReserved

end Sys2Proof.Machine
end

