-- ==== Sys2Proof/Machine/Datapath.lean ====
section
/-! DEFINITION. The decode datapath (R2 (b)): the running activation's block is decoded and its block instruction runs; and
the completion of an operation (R357, R420). -/

namespace Sys2Proof.Machine

/-- The block instructions, as the datapath runs them. A request is no block's instruction: no block decodes to one. -/
def runBlockInstr (i : Instr) (s : State) : Host.Outcome State Fault Refusal :=
  match i with
  | .bc6hM1 signed layout f => execBc6hM1 signed layout f s
  | .bc6hM2 signed layout f => execBc6hM2 signed layout f s
  | .bc6hM3 signed layout f => execBc6hM3 signed layout f s
  | .bc6hM4 signed layout f => execBc6hM4 signed layout f s
  | .bc6hM5 signed layout f => execBc6hM5 signed layout f s
  | .bc6hM6 signed layout f => execBc6hM6 signed layout f s
  | .bc6hM7 signed layout f => execBc6hM7 signed layout f s
  | .bc6hM8 signed layout f => execBc6hM8 signed layout f s
  | .bc6hM9 signed layout f => execBc6hM9 signed layout f s
  | .bc6hM10 signed layout f => execBc6hM10 signed layout f s
  | .bc6hM11 signed layout f => execBc6hM11 signed layout f s
  | .bc6hM12 signed layout f => execBc6hM12 signed layout f s
  | .bc6hM13 signed layout f => execBc6hM13 signed layout f s
  | .bc6hM14 signed layout f => execBc6hM14 signed layout f s
  | .bc6hReserved13 signed layout rest => execBc6hReserved13 signed layout rest s
  | .bc6hReserved17 signed layout rest => execBc6hReserved17 signed layout rest s
  | .bc6hReserved1B signed layout rest => execBc6hReserved1B signed layout rest s
  | .bc6hReserved1F signed layout rest => execBc6hReserved1F signed layout rest s
  | .bc7Mode0 f => execBc7Mode0 f s
  | .bc7Mode1 f => execBc7Mode1 f s
  | .bc7Mode2 f => execBc7Mode2 f s
  | .bc7Mode3 f => execBc7Mode3 f s
  | .bc7Mode4 f => execBc7Mode4 f s
  | .bc7Mode5 f => execBc7Mode5 f s
  | .bc7Mode6 f => execBc7Mode6 f s
  | .bc7Mode7 f => execBc7Mode7 f s
  | .bc7Reserved rest => execBc7Reserved rest s
  | .decodeBc6h _ _ _ _ => .next s
  | .decodeBc7 _ _ => .next s
  | .load _ _ _ _ => .next s
  | .sample _ _ _ _ => .next s

/-- The encoding space of an activation's block; an OTHER format has none of this unit's. -/
def Fmt.space (f : Fmt) : Option Space :=
  match f with
  | .bc6h signed layout => some (.bc6h signed layout)
  | .bc7 => some .bc7
  | .other _ => none

/-- How many texels a format's decoder writes (R342, R363). -/
def Fmt.texelCount (f : Fmt) : Nat :=
  match f with
  | .bc6h _ _ => 16
  | .bc7 => 16
  | .other format => (geometry .other format).count

/-- The working registers after `OtherDecoder` of a block (R363): its status and its samples. -/
def runOther (format : Nat) (bytes : List Byte) (r : WorkRegs) : WorkRegs :=
  { r with
    out := (List.range (Fmt.texelCount (.other format))).map fun i => .other (Config.otherSample format bytes i),
    status := Config.otherStatus format bytes }

/-- The step of an activation whose block is captured: the decoder of its format runs. A captured BC block of fewer
than 16 bytes would be read past its end (R173). -/
def runDecoder (a : Activation) (s : State) : Host.Outcome State Fault Refusal :=
  match a.fmt with
  | .other format => s.decodeInto (runOther format a.bytes)
  | .bc6h signed layout =>
    match decodeBytes (.bc6h signed layout) Operands.zero a.bytes with
    | .ok i => runBlockInstr i s
    | .error _ => .fault .readPastBlock
  | .bc7 =>
    match decodeBytes .bc7 Operands.zero a.bytes with
    | .ok i => runBlockInstr i s
    | .error _ => .fault .readPastBlock

/-- The next step of the running activation (R419): its decoder runs, or its result is returned. -/
def runActive (s : State) : Host.Outcome State Fault Refusal :=
  match s.active with
  | [] => .next s
  | a :: _ =>
    match a.phase with
    | .decoding => runDecoder a s
    | .returning => .next s.deliver

/-- The running activation, just started, runs to its return: its decoder first when it has a block to decode. -/
def complete (p : Phase) (s : State) : Host.Outcome State Fault Refusal :=
  match p with
  | .returning => runActive s
  | .decoding =>
    match runActive s with
    | .next s' => runActive s'
    | .fault f => .fault f
    | .refused r => .refused r

end Sys2Proof.Machine
end

