-- ==== Sys2Proof/Machine/Requests.lean ====
section
/-! DEFINITION. The four requests: DECODE_BC6H (R200), DECODE_BC7 (R260), LOAD (R348) and SAMPLE (R344). Each has a front
end, which makes the checks and captures the block, and gives the activation to run. -/

namespace Sys2Proof.Machine

/-- A fresh activation (R411) of the request the unit is taking, with its captured block. -/
def State.activation (s : State) (fmt : Fmt) (client : Client) (src : Source) (bytes : List Byte) : Activation :=
  { requester := s.issuer, fmt := fmt, client := client, src := src, bytes := bytes, regs := WorkRegs.start,
    phase := .decoding, raced := false }

/-- The front end of a DECODE: the 16 block bytes are captured as one value (R86, R416). -/
def decodeFront (s : State) (fmt : Fmt) (blk : Nat) (out : OutRef) : Activation :=
  s.activation fmt (.decode out) (.mem blk) (Memory.readBytes s.mem blk 16)

/-- The activation of a LOAD or SAMPLE that fails a check (R350 (a) to (d), (f)): with no block to decode it has only to
return the empty sample. Like every operation it is an activation (R411) and uses the buffer it names until it returns
(R361, R414). Its count of entries is the format's, as far as the buffer has them (log 29). -/
def State.emptyActivation (s : State) (scratch : Option ScratchRef) (smp : Nat) : Activation :=
  let v := s.samplerView smp
  let kind := s.kindOf v.format
  let count := min (geometry kind v.format).count (scratchCap scratch)
  { s.activation (fmtOfKind kind v.format) (.sampler scratch count none) .none [] with phase := .returning }

/-- The checks of LOAD (R348) in the order of R349, then the block's bytes (R356); `none` when a check fails. -/
def loadBlock (s : State) (scratch : Option ScratchRef) (smp : Nat) (texel : Vec3) (sel : Selector) :
    Option Activation :=
  let v := s.samplerView smp
  if v.isEmpty then none
  else
    let kind := s.kindOf v.format
    let g := geometry kind v.format
    if scratchCap scratch < g.count then none
    else
      let e := v.extent sel.mip
      if texelInRange texel e then
        let surf : SurfaceSel := ⟨sel.slice, sel.face, sel.mip, texel.z⟩
        let off := blockOffset g e.w.toNat texel.x.toNat texel.y.toNat
        match memRead (v.surface surf) off g.bytes with
        | none => none
        | some bytes =>
          some (s.activation (fmtOfKind kind v.format)
            (.sampler scratch g.count (some (blockEntry g texel.x.toNat texel.y.toNat)))
            (.span ((s.binding smp).getD 0) surf off) bytes)
      else none

/-- The front end of LOAD (R348): its block's activation, or the one that returns the empty sample. -/
def loadFront (s : State) (scratch : Option ScratchRef) (smp : Nat) (texel : Vec3) (sel : Selector) : Activation :=
  match loadBlock s scratch smp texel sel with
  | none => s.emptyActivation scratch smp
  | some a => a

/-- The texel of SAMPLE's coordinates (R344, R346): each component with its entry of `V.extent(mip)`; `none` when one
does not convert (R347). -/
def sampleTexel (v : TextureView) (uv : Vec3) (mip : Word32) : Option Vec3 :=
  let e := v.extent mip
  match Fl32.texelCoord e.w uv.x, Fl32.texelCoord e.h uv.y, Fl32.texelCoord e.d uv.z with
  | some x, some y, some z => some ⟨x, y, z⟩
  | _, _, _ => none

/-- The front end of SAMPLE (R344): the coordinates, then LOAD's. -/
def sampleFront (s : State) (scratch : Option ScratchRef) (smp : Nat) (uv : Vec3) (sel : Selector) : Activation :=
  match sampleTexel (s.samplerView smp) uv sel.mip with
  | none => s.emptyActivation scratch smp
  | some texel => loadFront s scratch smp texel sel

/-- A request as one step (R419): its activation begins (R393) and runs to its return. -/
def State.operate (s : State) (a : Activation) : Host.Outcome State Fault Refusal :=
  complete a.phase (s.begin a)

/-- DECODE_BC6H (R200); with fewer than 16 output entries it has no effect (R157 (4)). -/
def execDecodeBc6h (signed : Bool) (layout : Layout) (blk : Nat) (out : OutRef) (s : State) :
    Host.Outcome State Fault Refusal :=
  if out.wf then s.operate (decodeFront s (.bc6h signed layout) blk out) else .next s

/-- DECODE_BC7 (R260); with fewer than 16 output entries it has no effect (R157 (4)). -/
def execDecodeBc7 (blk : Nat) (out : OutRef) (s : State) : Host.Outcome State Fault Refusal :=
  if out.wf then s.operate (decodeFront s .bc7 blk out) else .next s

/-- LOAD (R348). -/
def execLoad (scratch : Option ScratchRef) (smp : Nat) (texel : Vec3) (sel : Selector) (s : State) :
    Host.Outcome State Fault Refusal :=
  s.operate (loadFront s scratch smp texel sel)

/-- SAMPLE (R344). -/
def execSample (scratch : Option ScratchRef) (smp : Nat) (uv : Vec3) (sel : Selector) (s : State) :
    Host.Outcome State Fault Refusal :=
  s.operate (sampleFront s scratch smp uv sel)

/-- A decoded request starts, its activation to run later (the event `issue`; R393). A request's encoding decodes to no
block instruction. -/
def State.start (s : State) (i : Instr) : State :=
  match i with
  | .decodeBc6h signed layout blk out =>
    if out.wf then s.begin (decodeFront s (.bc6h signed layout) blk out) else s
  | .decodeBc7 blk out => if out.wf then s.begin (decodeFront s .bc7 blk out) else s
  | .load scratch smp texel sel => s.begin (loadFront s scratch smp texel sel)
  | .sample scratch smp uv sel => s.begin (sampleFront s scratch smp uv sel)
  | .bc6hM1 _ _ _ | .bc6hM2 _ _ _ | .bc6hM3 _ _ _ | .bc6hM4 _ _ _ | .bc6hM5 _ _ _ | .bc6hM6 _ _ _
  | .bc6hM7 _ _ _ | .bc6hM8 _ _ _ | .bc6hM9 _ _ _ | .bc6hM10 _ _ _ | .bc6hM11 _ _ _ | .bc6hM12 _ _ _
  | .bc6hM13 _ _ _ | .bc6hM14 _ _ _ | .bc6hReserved13 _ _ _ | .bc6hReserved17 _ _ _ | .bc6hReserved1B _ _ _
  | .bc6hReserved1F _ _ _ | .bc7Mode0 _ | .bc7Mode1 _ | .bc7Mode2 _ | .bc7Mode3 _ | .bc7Mode4 _ | .bc7Mode5 _
  | .bc7Mode6 _ | .bc7Mode7 _ | .bc7Reserved _ => s

end Sys2Proof.Machine
end

