-- ==== Sys2Proof/Machine/Dispatch.lean ====
section
/-! DEFINITION. One arm for each instruction, each a direct call of its meaning. -/

namespace Sys2Proof.Machine

def exec (i : Instr) (s : State) : Host.Outcome State Fault Refusal :=
  match i with
  | .bc6hM1 signed layout f => Sys2Proof.Machine.execBc6hM1 signed layout f s
  | .bc6hM2 signed layout f => Sys2Proof.Machine.execBc6hM2 signed layout f s
  | .bc6hM3 signed layout f => Sys2Proof.Machine.execBc6hM3 signed layout f s
  | .bc6hM4 signed layout f => Sys2Proof.Machine.execBc6hM4 signed layout f s
  | .bc6hM5 signed layout f => Sys2Proof.Machine.execBc6hM5 signed layout f s
  | .bc6hM6 signed layout f => Sys2Proof.Machine.execBc6hM6 signed layout f s
  | .bc6hM7 signed layout f => Sys2Proof.Machine.execBc6hM7 signed layout f s
  | .bc6hM8 signed layout f => Sys2Proof.Machine.execBc6hM8 signed layout f s
  | .bc6hM9 signed layout f => Sys2Proof.Machine.execBc6hM9 signed layout f s
  | .bc6hM10 signed layout f => Sys2Proof.Machine.execBc6hM10 signed layout f s
  | .bc6hM11 signed layout f => Sys2Proof.Machine.execBc6hM11 signed layout f s
  | .bc6hM12 signed layout f => Sys2Proof.Machine.execBc6hM12 signed layout f s
  | .bc6hM13 signed layout f => Sys2Proof.Machine.execBc6hM13 signed layout f s
  | .bc6hM14 signed layout f => Sys2Proof.Machine.execBc6hM14 signed layout f s
  | .bc6hReserved13 signed layout rest => Sys2Proof.Machine.execBc6hReserved13 signed layout rest s
  | .bc6hReserved17 signed layout rest => Sys2Proof.Machine.execBc6hReserved17 signed layout rest s
  | .bc6hReserved1B signed layout rest => Sys2Proof.Machine.execBc6hReserved1B signed layout rest s
  | .bc6hReserved1F signed layout rest => Sys2Proof.Machine.execBc6hReserved1F signed layout rest s
  | .bc7Mode0 f => Sys2Proof.Machine.execBc7Mode0 f s
  | .bc7Mode1 f => Sys2Proof.Machine.execBc7Mode1 f s
  | .bc7Mode2 f => Sys2Proof.Machine.execBc7Mode2 f s
  | .bc7Mode3 f => Sys2Proof.Machine.execBc7Mode3 f s
  | .bc7Mode4 f => Sys2Proof.Machine.execBc7Mode4 f s
  | .bc7Mode5 f => Sys2Proof.Machine.execBc7Mode5 f s
  | .bc7Mode6 f => Sys2Proof.Machine.execBc7Mode6 f s
  | .bc7Mode7 f => Sys2Proof.Machine.execBc7Mode7 f s
  | .bc7Reserved rest => Sys2Proof.Machine.execBc7Reserved rest s
  | .decodeBc6h signed layout blk out => Sys2Proof.Machine.execDecodeBc6h signed layout blk out s
  | .decodeBc7 blk out => Sys2Proof.Machine.execDecodeBc7 blk out s
  | .load scratch smp texel sel => Sys2Proof.Machine.execLoad scratch smp texel sel s
  | .sample scratch smp uv sel => Sys2Proof.Machine.execSample scratch smp uv sel s

end Sys2Proof.Machine
end

