-- ==== Sys2Proof/Machine/Agenda.lean ====
section
/-! DEFINITION. What one step does: the events of the agenda (R2, R393, R412, R415; log 1), the running activation, and
the oldest request. -/

namespace Sys2Proof.Machine

/-- The running activation's step, its block instruction run by `exec`. -/
def stepActive (a : Activation) (s : State) : Host.Outcome State Fault Refusal :=
  match a.phase, a.fmt.space with
  | .decoding, some sp =>
    match decodeBytes sp Operands.zero a.bytes with
    | .ok i => exec i s
    | .error _ => .fault .readPastBlock
  | _, _ => runActive s

/-- The oldest request is taken: the unit runs it as one operation, or refuses it, with no effect and no result (R157;
log 10). -/
def stepRequest (r : Request) (rest : List Request) (s : State) : Host.Outcome State Fault Refusal :=
  match decodeRequest r.cmd r.ops with
  | .ok i => exec i { s with queue := rest, issuer := r.requester }
  | .error _ => .next { s with queue := rest }

/-- The step when no event is due: the running activation moves, else the oldest request is taken, else the unit is
idle. -/
def stepUnit (s : State) : Host.Outcome State Fault Refusal :=
  match s.active with
  | a :: _ => stepActive a s
  | [] =>
    match s.queue with
    | [] => .next s
    | r :: rest => stepRequest r rest s

/-- The oldest request starts, its activation to run later (R393). -/
def State.issueNext (s : State) : State :=
  match s.queue with
  | [] => s
  | r :: rest =>
    match decodeRequest r.cmd r.ops with
    | .ok i => State.start { s with queue := rest, issuer := r.requester } i
    | .error _ => { s with queue := rest }

/-- The k-th activation in progress made the running one; a number past the last changes nothing. -/
def State.bringForward (s : State) (k : Nat) : State :=
  match s.active[k]? with
  | none => s
  | some a => { s with active := a :: s.active.eraseIdx k }

/-- The k-th activation in progress takes its next step (R393). -/
def stepAdvance (k : Nat) (s : State) : Host.Outcome State Fault Refusal :=
  match s.active[k]? with
  | none => .next s
  | some a => stepActive a (s.bringForward k)

/-- An event of the agenda. -/
def stepEvent (e : Event) (s : State) : Host.Outcome State Fault Refusal :=
  match e with
  | .issue => .next s.issueNext
  | .advance k => stepAdvance k s
  | .memWrite addr b => .next (s.storeByte addr b)
  | .spanWrite view sel off b => .next (s.writeSpan view sel off b)
  | .createSampler smp view => .next (s.createSampler smp view)

/-- The activation that decodes a block of a table word as its next step: a DECODE into the buffer at address 0. -/
def tableActivation (fmt : Fmt) (nbits w : Nat) : Activation :=
  { requester := 0, fmt := fmt, client := .decode Operands.tableRecord.out, src := .mem 0, bytes := tableBytes nbits w,
    regs := WorkRegs.start, phase := .decoding, raced := false }

/-- The state with a table word placed where the next step takes its instruction (log 16): a request's as the oldest of
the queue, a block's in an activation about to decode it. -/
def State.place (s : State) (nbits w : Nat) : State :=
  match tableSpace nbits w with
  | .request =>
    { s with agenda := [], active := [],
             queue := ⟨0, BitVec.ofNat 8 (w % 2 ^ nbits), Operands.tableRecord⟩ :: s.queue }
  | .bc6h signed layout => { s with agenda := [], active := [tableActivation (.bc6h signed layout) nbits w] }
  | .bc7 => { s with agenda := [], active := [tableActivation .bc7 nbits w] }

end Sys2Proof.Machine
end

