-- ==== Sys2Proof/Machine/Step.lean ====
section
/-! DEFINITION. One step of the machine. -/

namespace Sys2Proof.Machine

/-- One step: the agenda's next event, or, with an empty agenda, the unit's own next step (log 1). -/
def step (s : State) : Host.Outcome State Fault Refusal :=
  match s.agenda with
  | e :: rest => stepEvent e { s with agenda := rest }
  | [] => stepUnit s

/-- The state in which the next step runs the instruction of a word of the opcode table (log 16). -/
def State.withFetchWord (s : State) (nbits w : Nat) : State :=
  s.place nbits w

end Sys2Proof.Machine
end

