-- ==== Sys2Proof/Safety.lean ====
section
/-! DEFINITION. The invariants of the machine, and what a safe run is: one whose requesters obey the hazard rules (R414). -/

namespace Sys2Proof.Machine

/-- The activation has a block: it is no LOAD or SAMPLE that failed a check (R350). -/
def Activation.hasBlock (a : Activation) : Bool :=
  match a.client with
  | .decode _ => true
  | .sampler _ _ entry => entry.isSome

/-- The shape of an activation in progress: the sizes of its registers (R30), the cursor's bound (R31, R173), the size
of a captured BC block (R81), the size of a finished output (R200, R260, R363), and what its client was checked for
(R157 (4), R352, R359). One without a block has only to return. -/
def Activation.ok (a : Activation) : Bool :=
  decide (a.regs.cur ≤ 128) && decide (a.regs.w1.length = 16) && decide (a.regs.w2.length = 16) &&
    decide (a.regs.ends.length = 6) && decide (a.regs.pbits.length = 6) &&
    (if a.hasBlock then
      (match a.fmt with
        | .bc6h _ _ => decide (a.bytes.length = 16)
        | .bc7 => decide (a.bytes.length = 16)
        | .other _ => true) &&
      (match a.phase with
        | .decoding => true
        | .returning => decide (a.regs.out.length = a.fmt.texelCount))
      else decide (a.phase = .returning)) &&
    (match a.client with
      | .decode out => decide (16 ≤ out.entries) && a.fmt.space.isSome
      | .sampler scr count none => decide (count ≤ a.fmt.texelCount) && decide (count ≤ scratchCap scr)
      | .sampler scr count (some entry) =>
        decide (count = a.fmt.texelCount) && decide (entry < count) && decide (count ≤ scratchCap scr))

/-- The invariant of the machine: every memory and table in its canonical form, every activation in progress in
shape. -/
def State.Inv (s : State) : Prop :=
  Memory.wf s.mem = true ∧ Scratch.wf s.scratch = true ∧ Sparse.wf TextureView.absent s.views = true ∧
    Sparse.wf none s.samplers = true ∧ Sparse.wf Kind.other s.formats = true ∧ ∀ a ∈ s.active, a.ok = true

/-- The range of an endpoint channel (R30): −32768..65535 for BC6H, 0..255 for BC7. -/
def channelInRange (f : Fmt) (c : Int) : Bool :=
  match f with
  | .bc6h _ _ => decide (-32768 ≤ c) && decide (c ≤ 65535)
  | .bc7 => decide (0 ≤ c) && decide (c ≤ 255)
  | .other _ => decide (c = 0)

/-- The greatest mode code of a format (R30). -/
def codeLimit (f : Fmt) : Nat :=
  match f with
  | .bc6h _ _ => 31
  | .bc7 => 8
  | .other _ => 0

/-- The working registers are in the ranges of R30's table. -/
def Activation.inRange (a : Activation) : Bool :=
  decide (a.regs.cur ≤ 128) && decide (a.regs.code ≤ codeLimit a.fmt) && decide (a.regs.shape < 64) &&
    decide (a.regs.rot < 4) && decide (a.regs.imode < 2) && a.regs.pbits.all (fun p => decide (p < 2)) &&
    a.regs.w1.all (fun w => decide (w < 16)) && a.regs.w2.all (fun w => decide (w < 16)) &&
    a.regs.ends.all (fun q => channelInRange a.fmt q.r && channelInRange a.fmt q.g && channelInRange a.fmt q.b &&
      channelInRange a.fmt q.a)

/-- Every activation in progress has its working registers in range (R30). -/
def State.RegsInRange (s : State) : Prop :=
  ∀ a ∈ s.active, a.inRange = true

/-- Any two operations in progress that use the same buffer are marked raced (R414). -/
def State.SharersRaced (s : State) : Prop :=
  s.active.Pairwise fun a b => a.shares b = true → a.raced = true ∧ b.raced = true

/-- A safe state: no operation in progress shares its buffer, so no result is a free value of R414. -/
def State.HazardFree (s : State) : Prop :=
  ∀ a ∈ s.active, a.raced = false

end Sys2Proof.Machine
end

