-- ==== Sys2Proof/Certificates/Slice0/Obligations.lean ====
section
/-! DEFINITION. The statements for the provers. The namespace Sys2Proof.Spec holds the formulas of the rules they are
stated with, written from the rules a second time. -/

namespace Sys2Proof.Spec

open Sys2Proof.Machine

/-! ### The machine -/

/-- k steps in a row, stopping at a fault or a refusal. -/
def steps : Nat → State → Host.Outcome State Fault Refusal
  | 0, s => .next s
  | k + 1, s =>
    match step s with
    | .next t => steps k t
    | .fault f => .fault f
    | .refused r => .refused r

/-- The four requests; every other instruction is a block's. -/
def isRequest (i : Instr) : Bool :=
  match i with
  | .decodeBc6h _ _ _ _ => true
  | .decodeBc7 _ _ => true
  | .load _ _ _ _ => true
  | .sample _ _ _ _ => true
  | _ => false

/-- R411: the working registers at the start of an activation. -/
def startRegs : WorkRegs :=
  { cur := 0, code := 0, shape := 0, rot := 0, imode := 0,
    ends := [⟨0, 0, 0, 0⟩, ⟨0, 0, 0, 0⟩, ⟨0, 0, 0, 0⟩, ⟨0, 0, 0, 0⟩, ⟨0, 0, 0, 0⟩, ⟨0, 0, 0, 0⟩],
    pbits := [0, 0, 0, 0, 0, 0], w1 := [0, 0, 0, 0, 0, 0, 0, 0, 0, 0, 0, 0, 0, 0, 0, 0],
    w2 := [0, 0, 0, 0, 0, 0, 0, 0, 0, 0, 0, 0, 0, 0, 0, 0], out := [], status := .ok }

/-- A fresh activation of the request the unit is taking. -/
def fresh (s : State) (fmt : Fmt) (client : Client) (src : Source) (bytes : List Byte) : Activation :=
  { requester := s.issuer, fmt := fmt, client := client, src := src, bytes := bytes, regs := startRegs,
    phase := .decoding, raced := false }

/-- The state in which one activation is in progress and all else is as it was. -/
def alone (s : State) (a : Activation) : State :=
  { s with active := [a] }

/-- No operation in progress uses the scratch buffer named: a request's own activation, when it begins, shares it with none
(R414; log 22). The internal buffer is always unshared. -/
def bufferUnshared (s : State) (scr : Option ScratchRef) : Prop :=
  ∀ r, scr = some r → ∀ a ∈ s.active, ∀ r' n e, a.client = .sampler (some r') n e →
    sameBuffer r.base r.cap r'.base r'.cap = false

/-- R361: the activation of a request has the buffer that the request names. -/
def usesBuffer (i : Instr) (c : Client) : Prop :=
  match i with
  | .decodeBc6h _ _ _ out => c = .decode out
  | .decodeBc7 _ out => c = .decode out
  | .load scr _ _ _ => ∃ n e, c = .sampler scr n e
  | .sample scr _ _ _ => ∃ n e, c = .sampler scr n e
  | _ => False

/-- The next state is the state before with one answer returned to the requester whose request was taken. -/
def answered (s : State) (x : Answer) : State :=
  { s with results := s.results ++ [⟨s.issuer, x⟩] }

/-! ### BC6H (R202 to R211) -/

/-- The three channels of a register, each given by its channel name. -/
def quadOf (v : (Rgb → Nat) → Int) : Quad :=
  ⟨v Rgb.r, v Rgb.g, v Rgb.b, 0⟩

/-- R203: a channel of the base endpoint E0.A. -/
def bc6hBase (signed : Bool) (p v : Nat) : Int :=
  if signed = true then Color.sext p v else v

/-- R203 to R205: a channel of another endpoint. p is the base precision, q its own. -/
def bc6hOther (tr signed extend : Bool) (p q : Nat) (base : Int) (v : Nat) : Int :=
  let e : Int := if extend = true then Color.sext q v else v
  if tr = true then
    if signed = true then Color.sext p ((e + base) % 2 ^ p) else (e + base) % 2 ^ p
  else e

/-- R202 to R205: the endpoints E0.A, E0.B, E1.A, E1.B of a mode with the given record. -/
def bc6hEnds (i : Bc6hInfo) (signed : Bool) (f : Bc6hFields) : List Quad :=
  let base := fun (ch : Rgb → Nat) => bc6hBase signed (ch i.a0) (ch f.w)
  let ext0 := signed || i.tr
  let ext1 := (signed || i.tr) && decide (i.pc = 1)
  [quadOf base,
   quadOf fun ch => bc6hOther i.tr signed ext0 (ch i.a0) (ch i.b0) (base ch) (ch f.x),
   quadOf fun ch => bc6hOther i.tr signed ext1 (ch i.a0) (ch i.a1) (base ch) (ch f.y),
   quadOf fun ch => bc6hOther i.tr signed ext1 (ch i.a0) (ch i.b1) (base ch) (ch f.z)]

/-- R208 to R210: a channel of a pixel, from its endpoints a and b and its weight w. -/
def bc6hHalf (signed : Bool) (p w : Nat) (a b : Int) : Half :=
  Color.toHalf signed
    (Color.finish signed (Color.interp (Color.unquantize signed p a) (Color.unquantize signed p b) w))

/-- R206 to R211: the texel of pixel k. -/
def bc6hTexel (i : Bc6hInfo) (signed : Bool) (layout : Layout) (f : Bc6hFields) (k : Nat) : Texel :=
  let r := Rom.part i.pc f.d k
  let w := Rom.weight i.ib (f.idx.getD k 0)
  let a := (bc6hEnds i signed f).getD (2 * r) ⟨0, 0, 0, 0⟩
  let b := (bc6hEnds i signed f).getD (2 * r + 1) ⟨0, 0, 0, 0⟩
  layoutTexel layout (bc6hHalf signed i.a0.r w a.r b.r) (bc6hHalf signed i.a0.g w a.g b.g)
    (bc6hHalf signed i.a0.b w a.b b.b)

/-- R200: the working registers after a block of the given code and record. -/
def bc6hRegs (code : Nat) (i : Bc6hInfo) (signed : Bool) (layout : Layout) (f : Bc6hFields) (r : WorkRegs) : WorkRegs :=
  { r with
    cur := 128, code := code, shape := f.d, ends := bc6hEnds i signed f ++ r.ends.drop 4, w1 := f.idx,
    out := (List.range 16).map (bc6hTexel i signed layout f), status := .ok }

/-- A BC6H mode's instruction completes with the registers of R200 under the record its rule lists, and changes nothing
else. -/
def Bc6hCompletes (mk : Bool → Layout → Bc6hFields → Instr) (code : Nat) (i : Bc6hInfo) : Prop :=
  ∀ (signed : Bool) (layout : Layout) (f : Bc6hFields) (s : State) (a : Activation) (rest : List Activation),
    (mk signed layout f).wf = true → s.active = a :: rest →
      exec (mk signed layout f) s = .next { s with
        active := { a with regs := bc6hRegs code i signed layout f a.regs, phase := .returning } :: rest }

/-- A reserved code's instruction completes with the fill of R212, reads the prefix alone, and changes nothing else. -/
def Bc6hReservedCompletes (mk : Bool → Layout → BitVec 123 → Instr) (code : Nat) : Prop :=
  ∀ (signed : Bool) (layout : Layout) (ignored : BitVec 123) (s : State) (a : Activation) (rest : List Activation),
    s.active = a :: rest →
      exec (mk signed layout ignored) s = .next { s with
        active := { a with
          regs := { a.regs with
            cur := 5, code := code, status := .ok,
            out := List.replicate 16 (layoutTexel layout 0x0000#16 0x0000#16 0x0000#16) },
          phase := .returning } :: rest }

/-! ### BC7 (R263 to R273) -/

/-- R264, R266, R267: a channel of an endpoint after the P-bit and the expansion to 8 bits. -/
def bc7Channel (p pP q c : Nat) : Nat :=
  if pP = 0 then 255
  else
    let v := if pP = p then c else 2 * c + q
    let v' := v * 2 ^ (8 - pP) % 256
    v' ||| (v' / 2 ^ pP)

/-- R264 to R267: the endpoints of a mode with the given record. -/
def bc7Ends (i : Bc7Info) (f : Bc7Fields) : List Quad :=
  (List.range (2 * (i.pc + 1))).map fun e =>
    let v := f.ends.getD e ⟨0, 0, 0, 0⟩
    let q := f.pbits.getD (e * i.np / (2 * (i.pc + 1))) 0
    ⟨bc7Channel i.prec.r i.precP.r q v.r, bc7Channel i.prec.g i.precP.g q v.g, bc7Channel i.prec.b i.precP.b q v.b,
      bc7Channel i.prec.a i.precP.a q v.a⟩

/-- R270 to R273: the texel of pixel k. -/
def bc7Texel (i : Bc7Info) (f : Bc7Fields) (k : Nat) : Texel :=
  let r := Rom.part i.pc f.shape k
  let a := (bc7Ends i f).getD (2 * r) ⟨0, 0, 0, 0⟩
  let b := (bc7Ends i f).getD (2 * r + 1) ⟨0, 0, 0, 0⟩
  let w1 := Rom.weight i.ip (f.w1.getD k 0)
  let w2 := Rom.weight i.ip2 (f.w2.getD k 0)
  let wc := if i.ip2 = 0 ∨ f.imode = 0 then w1 else w2
  let wa := if i.ip2 = 0 then w1 else if f.imode = 0 then w2 else w1
  let tr := BitVec.ofInt 8 (Color.interp a.r b.r wc)
  let tg := BitVec.ofInt 8 (Color.interp a.g b.g wc)
  let tb := BitVec.ofInt 8 (Color.interp a.b b.b wc)
  let ta := BitVec.ofInt 8 (Color.interp a.a b.a wa)
  if f.rot = 1 then .rgba8 ta tg tb tr
  else if f.rot = 2 then .rgba8 tr ta tb tg
  else if f.rot = 3 then .rgba8 tr tg ta tb
  else .rgba8 tr tg tb ta

/-- R260: the working registers after a block of the given mode and record. -/
def bc7Regs (mode : Nat) (i : Bc7Info) (f : Bc7Fields) (r : WorkRegs) : WorkRegs :=
  { cur := 128, code := mode, shape := f.shape, rot := f.rot, imode := f.imode,
    ends := bc7Ends i f ++ r.ends.drop (2 * (i.pc + 1)), pbits := f.pbits ++ List.replicate (6 - i.np) 0, w1 := f.w1,
    w2 := if i.ip2 = 0 then List.replicate 16 0 else f.w2, out := (List.range 16).map (bc7Texel i f), status := .ok }

/-- A BC7 mode's instruction completes with the registers of R260 under the record its rule lists, and changes nothing
else. -/
def Bc7Completes (mk : Bc7Fields → Instr) (mode : Nat) (i : Bc7Info) : Prop :=
  ∀ (f : Bc7Fields) (s : State) (a : Activation) (rest : List Activation),
    (mk f).wf = true → s.active = a :: rest →
      exec (mk f) s = .next { s with
        active := { a with regs := bc7Regs mode i f a.regs, phase := .returning } :: rest }

/-! ### Values -/

/-- The value of a half that is no NaN, in units of 2^-149 (R7); an infinity by its sign. -/
def halfValue (h : Half) : Fl32.FVal :=
  let sign := h.getLsbD 15
  let e := h.toNat / 2 ^ 10 % 2 ^ 5
  let f := h.toNat % 2 ^ 10
  if e = 31 then (if f = 0 then .inf sign else .nan)
  else
    let m : Nat := if e = 0 then f * 2 ^ 125 else (2 ^ 10 + f) * 2 ^ (e + 124)
    .finite (if sign then -(m : Int) else m)

/-- The value of a binary32 pattern without its sign, in units of 2^-149 (R7); the pattern of infinity stands as 2^128, the
step after the largest finite value. -/
def f32Magnitude (b : Nat) : Nat :=
  if b / 2 ^ 23 = 0 then b % 2 ^ 23 else (2 ^ 23 + b % 2 ^ 23) * 2 ^ (b / 2 ^ 23 - 1)

/-- The value of a binary32 (R7). -/
def f32Value (x : F32) : Fl32.FVal :=
  let sign := x.getLsbD 31
  let b := x.toNat % 2 ^ 31
  if b / 2 ^ 23 = 255 then (if b % 2 ^ 23 = 0 then .inf sign else .nan)
  else .finite (if sign then -(f32Magnitude b : Int) else f32Magnitude b)

/-- The order of the halves' values: sign and magnitude read as an integer. -/
def halfOrder (h : Half) : Int :=
  if h.getLsbD 15 then -((h.toNat % 2 ^ 15 : Nat) : Int) else h.toNat

/-! ### The sampler -/

/-- R342: the decoder of a block-compressed kind, with its encoding space. -/
def blockKind (k : Kind) : Option (Fmt × Space) :=
  match k with
  | .bc6hUf16 => some (.bc6h false .float4, .bc6h false .float4)
  | .bc6hSf16 => some (.bc6h true .float4, .bc6h true .float4)
  | .bc7 => some (.bc7, .bc7)
  | .other => none

/-- R354: the texel is in range. -/
def inRange (t : Vec3) (e : Extent) : Prop :=
  (0 ≤ t.x.toInt ∧ t.x.toInt < e.w.toNat) ∧ (0 ≤ t.y.toInt ∧ t.y.toInt < e.h.toNat) ∧
    (0 ≤ t.z.toInt ∧ t.z.toInt < e.d.toNat)

/-- R355, R365: the surface of a texel. -/
def surfaceOf (t : Vec3) (sel : Selector) : SurfaceSel :=
  ⟨sel.slice, sel.face, sel.mip, t.z⟩

/-- R346, R347: the component c converts to the texel coordinate t for extent e: with c' the wrapped component,
t = floor(fl32(fl32(fl32(e − 1)·c') + 0.5)), every one of these finite, and t an i32. Products and sums are exact, in units
of 2^-149 or 2^-298, before each rounding. -/
def coordConverts (e : Word32) (c : F32) (t : Word32) : Prop :=
  ∃ c' k p q : Int, Fl32.wrap (f32Value c) = .finite c' ∧ Fl32.fl32 ((e.toNat : Int) - 1) 1 = .finite k ∧
    Fl32.fl32 (k * c') (2 ^ 149 * 2 ^ 149) = .finite p ∧ Fl32.fl32 (p + 2 ^ 148) (2 ^ 149) = .finite q ∧
    t.toInt = q / 2 ^ 149

/-- R344, R346: the uv components convert to the texel. -/
def converts (v : TextureView) (uv : Vec3) (mip : Word32) (t : Vec3) : Prop :=
  coordConverts (v.extent mip).w uv.x t.x ∧ coordConverts (v.extent mip).h uv.y t.y ∧
    coordConverts (v.extent mip).d uv.z t.z

/-- R366: the sample of a decoded texel: a FLOAT4 texel has the same four values, a BC7 texel fl32(c / 255) of each channel.
No block of the sampler's decodes to another kind of entry (R342). -/
def converted (x : Texel) : Sample :=
  match x with
  | .float4 r g b a => .f32x4 r g b a
  | .rgba8 r g b a => .f32x4 (Fl32.unorm8 r) (Fl32.unorm8 g) (Fl32.unorm8 b) (Fl32.unorm8 a)
  | _ => .none

/-- R367: the scratch space after samples were written from entry 0 of the buffer on; the internal buffer is discarded
(R343). -/
def ScratchAfter (before after : Sparse Sample) (scr : Option ScratchRef) (samples : List Sample) : Prop :=
  match scr with
  | none => after = before
  | some r => ∀ e, Scratch.read after e =
      if r.base ≤ e ∧ e < r.base + samples.length then samples.getD (e - r.base) .none else Scratch.read before e

end Sys2Proof.Spec

section

open Sys2Proof Sys2Proof.Machine Sys2Proof.Spec

/-! ### Encoding -/

/-- R110 to R160: decoding the encoding of a well-formed instruction gives it back, for every instruction. -/
def Obligations.DecodeEncode : Prop :=
  ∀ i : Instr, i.wf = true → decode (encode i) = .ok i

/-- R129 (4), R130, R150, R151: every 128-bit block is the encoding of exactly the well-formed instruction it decodes to:
no block is illegal, and no bit of one is lost. -/
def Obligations.EncodeDecodeBlock : Prop :=
  (∀ (signed : Bool) (layout : Layout) (blk : Block), ∃ i, decodeBc6hBlock signed layout blk = .ok i ∧ i.wf = true ∧
      encode i = .bc6h signed layout blk) ∧
    ∀ blk : Block, (decodeBc7Block blk).wf = true ∧ encode (decodeBc7Block blk) = .bc7 blk

/-- R155, R156: a request that decodes is well-formed, and its instruction encodes to the same command byte, with an
operand record that decodes to the same instruction. -/
def Obligations.EncodeDecodeRequest : Prop :=
  ∀ (cmd : Byte) (o : Operands) (i : Instr), decodeRequest cmd o = .ok i →
    i.wf = true ∧ ∃ o', encode i = .request cmd o' ∧ decodeRequest cmd o' = .ok i

/-- R158, R159: words written out by hand: BC6H M11 with gw = 512 and bw = 1023, BC7 mode 6 with R1 = 1 and primary index
2 at pixel 1, the reserved blocks of both formats, and four command bytes. -/
def Obligations.DecodeWords : Prop :=
  decodeBc6hBlock false .half4 (0x3 ||| (512 <<< 15) ||| (1023 <<< 25)) = .ok (.bc6hM11 false .half4
      ⟨⟨0, 512, 1023⟩, ⟨0, 0, 0⟩, ⟨0, 0, 0⟩, ⟨0, 0, 0⟩, 0, [0, 0, 0, 0, 0, 0, 0, 0, 0, 0, 0, 0, 0, 0, 0, 0]⟩) ∧
    decodeBc7Block (0x40 ||| (1 <<< 14) ||| (2 <<< 68)) =
      .bc7Mode6 ⟨0, 0, 0, [⟨0, 0, 0, 0⟩, ⟨1, 0, 0, 0⟩], [0, 0], [0, 2, 0, 0, 0, 0, 0, 0, 0, 0, 0, 0, 0, 0, 0, 0], []⟩ ∧
    decodeBc6hBlock true .float3 0x3F = .ok (.bc6hReserved1F true .float3 1) ∧ decodeBc7Block 0x100 = .bc7Reserved 1 ∧
    decodeRequest 0x0C#8 ⟨7, ⟨9, 16⟩, none, 0, ⟨0, 0, 0⟩, ⟨0, 0, 0⟩⟩ = .ok (.decodeBc6h true .half4 7 ⟨9, 16⟩) ∧
    decodeRequest 0x01#8 ⟨7, ⟨9, 16⟩, none, 0, ⟨0, 0, 0⟩, ⟨0, 0, 0⟩⟩ = .ok (.decodeBc7 7 ⟨9, 16⟩) ∧
    decodeRequest 0x02#8 ⟨0, ⟨0, 0⟩, some ⟨4, 16⟩, 3, ⟨1, 2, 0⟩, ⟨0, 5, 0⟩⟩ =
      .ok (.load (some ⟨4, 16⟩) 3 ⟨1, 2, 0⟩ ⟨0, 5, 0⟩) ∧
    decodeRequest 0x23#8 ⟨0, ⟨0, 0⟩, none, 3, ⟨1, 2, 0⟩, ⟨0, 5, 0⟩⟩ = .ok (.sample none 3 ⟨1, 2, 0⟩ ⟨0, 5, 0⟩)

/-- R111: the code is block bits 1:0 and the cursor 2 when those bits are 00 or 01; else the code is block bits 4:0 and
the cursor 5. -/
def Obligations.Bc6hModeCode : Prop :=
  ∀ blk : Block, bc6hModeRead blk =
    if blk.toNat % 4 = 0 ∨ blk.toNat % 4 = 1 then (blk.toNat % 4, 2) else (blk.toNat % 32, 5)

/-- R140: the mode is the position of the first one among block bits 0 to 7, and 8 when all eight are zero. -/
def Obligations.Bc7UnaryMode : Prop :=
  ∀ blk : Block,
    (∀ m, m < 8 → (bc7ModeRead blk = m ↔ blk.getLsbD m = true ∧ ∀ j, j < m → blk.getLsbD j = false)) ∧
      (bc7ModeRead blk = 8 ↔ ∀ j, j < 8 → blk.getLsbD j = false)

/-- R171, R172: within R171's contract, `GetBits` gives the sum of the block bits read, the first with weight 1, and moves
the cursor by n; of width 0 it gives 0 and leaves the cursor. Past bit 128 R173 defines no value, and nothing is stated. -/
def Obligations.GetBitsValue : Prop :=
  ∀ (blk : Block) (cur n : Nat), n ≤ 8 → cur + n ≤ 128 →
    Bits.getBits blk cur n =
        (((List.range n).map fun j => (blk.getLsbD (cur + j)).toNat * 2 ^ j).sum, cur + n) ∧
      Bits.getBits blk cur 0 = (0, cur)

/-- R130, R151, R174: every mode's fields total 128 bits, and no field read is wider than 8. -/
def Obligations.LayoutLengths : Prop :=
  (∀ code < 32, ∀ i ∈ (Rom.bc6hInfo code).toList, ∀ d < 32,
      (bc6hDesc code).length = bc6hHeaderBits i.pc ∧
        bc6hHeaderBits i.pc + (Rom.indexWidths i.pc d i.ib).sum = 128 ∧
        (Rom.indexWidths i.pc d i.ib).all (· ≤ 8) = true) ∧
    ∀ mode < 9, ∀ i ∈ (Rom.bc7Info mode).toList, ∀ shape < 64,
      mode + 1 + (Bc7.fieldWidths i shape).sum = 128 ∧ (Bc7.fieldWidths i shape).all (· ≤ 8) = true

/-! ### Tables and helpers -/

/-- R43 (1) to (5), for both partition tables. -/
def Obligations.PartitionTables : Prop :=
  (∀ pc < 3, ∀ s < 64, Rom.part pc s 0 = 0 ∧ Rom.fixup pc s 0 = 0) ∧
    (∀ pc < 3, ∀ s < 64, ∀ r < pc + 1, Rom.fixup pc s r < 16 ∧ Rom.part pc s (Rom.fixup pc s r) = r) ∧
    (∀ pc < 3, ∀ s < 64, ∀ r < pc + 1, ∀ r' < pc + 1, Rom.fixup pc s r = Rom.fixup pc s r' → r = r') ∧
    (∀ pc < 3, ∀ s < 64, ∀ i < 16, Rom.part pc s i < pc + 1) ∧
    ∀ pc, pc = 1 ∨ pc = 2 → ∀ s < 64, ∀ s' < 64,
      (List.range 16).map (Rom.part pc s) = (List.range 16).map (Rom.part pc s') → s = s'

/-- R300: every weight is in 0..64, and each table rises strictly from 0 to 64. -/
def Obligations.WeightTables : Prop :=
  ∀ p, p = 2 ∨ p = 3 ∨ p = 4 →
    Rom.weight p 0 = 0 ∧ Rom.weight p (2 ^ p - 1) = 64 ∧
      ∀ i < 2 ^ p, ∀ j < 2 ^ p, i < j → Rom.weight p i < Rom.weight p j

/-- R301: exact at the ends, within the endpoints, non-decreasing in the weight, and the nearest integer with ties
upward. -/
def Obligations.InterpLaws : Prop :=
  ∀ (a b : Int) (w : Nat), w ≤ 64 →
    Color.interp a b 0 = a ∧ Color.interp a b 64 = b ∧
      (64 * Color.interp a b w ≤ a * (64 - w) + b * w + 32 ∧ a * (64 - w) + b * w + 32 < 64 * Color.interp a b w + 64) ∧
      (a ≤ b → a ≤ Color.interp a b w ∧ Color.interp a b w ≤ b) ∧
      ∀ w' : Nat, a ≤ b → w ≤ w' → w' ≤ 64 → Color.interp a b w ≤ Color.interp a b w'

/-- R302: `sext_n(v)` is the n-bit two's-complement value congruent to v; a value with bit n−1 clear is unchanged. -/
def Obligations.SignExtension : Prop :=
  ∀ (n : Nat) (v : Int), 1 ≤ n →
    (-(2 ^ (n - 1)) ≤ Color.sext n v ∧ Color.sext n v < 2 ^ (n - 1)) ∧ (2 ^ n : Int) ∣ Color.sext n v - v ∧
      (0 ≤ v → v < 2 ^ (n - 1) → Color.sext n v = v)

/-- R303: the unsigned curve by cases, within 0..0xFFFF and non-decreasing. -/
def Obligations.UnquantizeUnsigned : Prop :=
  ∀ p c c' : Nat, 1 ≤ p → p ≤ 16 → c ≤ c' → c' ≤ 2 ^ p - 1 →
    Color.unquantize false p c =
        (if 15 ≤ p then (c : Int) else if c = 0 then 0 else if c = 2 ^ p - 1 then 0xFFFF
          else ((c * 2 ^ 16 + 0x8000) / 2 ^ p : Nat)) ∧
      0 ≤ Color.unquantize false p c ∧ Color.unquantize false p c ≤ 0xFFFF ∧
      Color.unquantize false p c ≤ Color.unquantize false p c'

/-- R304: the signed curve by cases, its range, odd where both signs exist, and non-decreasing. -/
def Obligations.UnquantizeSigned : Prop :=
  ∀ (p : Nat) (c c' : Int), 2 ≤ p → p ≤ 16 → -(2 ^ (p - 1)) ≤ c → c ≤ c' → c' ≤ 2 ^ (p - 1) - 1 →
    Color.unquantize true p c =
        (if 16 ≤ p then c else if c = 0 then 0 else if 2 ^ (p - 1) - 1 ≤ c then 0x7FFF
          else if c ≤ -(2 ^ (p - 1) - 1) then -0x7FFF
          else if 0 < c then (c * 2 ^ 15 + 0x4000) / 2 ^ (p - 1) else -((-c * 2 ^ 15 + 0x4000) / 2 ^ (p - 1))) ∧
      (p < 16 → -0x7FFF ≤ Color.unquantize true p c ∧ Color.unquantize true p c ≤ 0x7FFF) ∧
      (-(2 ^ (p - 1)) < c → Color.unquantize true p (-c) = -Color.unquantize true p c) ∧
      Color.unquantize true p c ≤ Color.unquantize true p c'

/-- R305, R306, R210: the half of an interpolated value: 0..0x7BFF unsigned; 0..0x7BFF or 0x8001..0xFC00 signed, 0xFC00
only for −32768; non-decreasing in the value. -/
def Obligations.FinishToHalf : Prop :=
  (∀ v v' : Int, 0 ≤ v → v ≤ v' → v' ≤ 0xFFFF →
      (Color.toHalf false (Color.finish false v)).toNat = v.toNat * 31 / 64 ∧
        (Color.toHalf false (Color.finish false v)).toNat ≤ 0x7BFF ∧
        halfOrder (Color.toHalf false (Color.finish false v)) ≤ halfOrder (Color.toHalf false (Color.finish false v'))) ∧
    ∀ v v' : Int, -32768 ≤ v → v ≤ v' → v' ≤ 32767 →
      (0 ≤ v → (Color.toHalf true (Color.finish true v)).toNat = v.toNat * 31 / 32) ∧
        (v < 0 → (Color.toHalf true (Color.finish true v)).toNat =
          if (-v).toNat * 31 / 32 = 0 then 0 else 0x8000 + (-v).toNat * 31 / 32) ∧
        (Color.toHalf true (Color.finish true v) = 0xFC00#16 ↔ v = -32768) ∧
        halfOrder (Color.toHalf true (Color.finish true v)) ≤ halfOrder (Color.toHalf true (Color.finish true v'))

/-- R307: the widening of a half is exact: the binary32 has the half's value and its sign bit, and an infinity or a NaN
keeps its fraction, shifted left by 13. -/
def Obligations.HalfWideningExact : Prop :=
  ∀ h : Half, Fl32.ofBits (Color.h2f h) = halfValue h ∧ (Color.h2f h).getLsbD 31 = h.getLsbD 15 ∧
    (h.toNat / 2 ^ 10 % 2 ^ 5 = 31 →
      (Color.h2f h).toNat % 2 ^ 31 = 0xFF * 2 ^ 23 + h.toNat % 2 ^ 10 * 2 ^ 13)

/-- R308: the expansion by its formula at every precision, and its corners. -/
def Obligations.Unq8Expansion : Prop :=
  (∀ p < 9, 1 ≤ p → ∀ c < 2 ^ p,
      Color.unq8 c p = (c * 2 ^ (8 - p) % 256) ||| (c * 2 ^ (8 - p) % 256 / 2 ^ p)) ∧
    (∀ p < 9, 4 ≤ p → Color.unq8 0 p = 0 ∧ Color.unq8 (2 ^ p - 1) p = 255) ∧ (∀ c < 256, Color.unq8 c 8 = c) ∧
    Color.unq8 1 1 = 192

/-- R204, R310: a rebased channel is the one value of the base width congruent to the sum: 0..2^p − 1 unsigned,
−2^(p−1)..2^(p−1) − 1 signed. -/
def Obligations.InverseTransform : Prop :=
  ∀ (signed : Bool) (p : Nat) (base e : Int), 1 ≤ p →
    (2 ^ p : Int) ∣ Bc6h.rebaseChannel signed p base e - (e + base) ∧
      (signed = false → 0 ≤ Bc6h.rebaseChannel signed p base e ∧ Bc6h.rebaseChannel signed p base e < 2 ^ p) ∧
      (signed = true → -(2 ^ (p - 1)) ≤ Bc6h.rebaseChannel signed p base e ∧
        Bc6h.rebaseChannel signed p base e < 2 ^ (p - 1))

/-! ### The block instructions -/

/-- R216 to R225: each two-region BC6H mode completes with the registers of R200 under its rule's parameters. -/
def Obligations.Bc6hTwoRegionModes : Prop :=
  Bc6hCompletes .bc6hM1 0x00 ⟨1, true, 3, ⟨10, 10, 10⟩, ⟨5, 5, 5⟩, ⟨5, 5, 5⟩, ⟨5, 5, 5⟩⟩ ∧
    Bc6hCompletes .bc6hM2 0x01 ⟨1, true, 3, ⟨7, 7, 7⟩, ⟨6, 6, 6⟩, ⟨6, 6, 6⟩, ⟨6, 6, 6⟩⟩ ∧
    Bc6hCompletes .bc6hM3 0x02 ⟨1, true, 3, ⟨11, 11, 11⟩, ⟨5, 4, 4⟩, ⟨5, 4, 4⟩, ⟨5, 4, 4⟩⟩ ∧
    Bc6hCompletes .bc6hM4 0x06 ⟨1, true, 3, ⟨11, 11, 11⟩, ⟨4, 5, 4⟩, ⟨4, 5, 4⟩, ⟨4, 5, 4⟩⟩ ∧
    Bc6hCompletes .bc6hM5 0x0A ⟨1, true, 3, ⟨11, 11, 11⟩, ⟨4, 4, 5⟩, ⟨4, 4, 5⟩, ⟨4, 4, 5⟩⟩ ∧
    Bc6hCompletes .bc6hM6 0x0E ⟨1, true, 3, ⟨9, 9, 9⟩, ⟨5, 5, 5⟩, ⟨5, 5, 5⟩, ⟨5, 5, 5⟩⟩ ∧
    Bc6hCompletes .bc6hM7 0x12 ⟨1, true, 3, ⟨8, 8, 8⟩, ⟨6, 5, 5⟩, ⟨6, 5, 5⟩, ⟨6, 5, 5⟩⟩ ∧
    Bc6hCompletes .bc6hM8 0x16 ⟨1, true, 3, ⟨8, 8, 8⟩, ⟨5, 6, 5⟩, ⟨5, 6, 5⟩, ⟨5, 6, 5⟩⟩ ∧
    Bc6hCompletes .bc6hM9 0x1A ⟨1, true, 3, ⟨8, 8, 8⟩, ⟨5, 5, 6⟩, ⟨5, 5, 6⟩, ⟨5, 5, 6⟩⟩ ∧
    Bc6hCompletes .bc6hM10 0x1E ⟨1, false, 3, ⟨6, 6, 6⟩, ⟨6, 6, 6⟩, ⟨6, 6, 6⟩, ⟨6, 6, 6⟩⟩

/-- R226 to R229: each one-region BC6H mode completes with the registers of R200 under its rule's parameters; the
precisions of the unused region 1 stand as 0. -/
def Obligations.Bc6hOneRegionModes : Prop :=
  Bc6hCompletes .bc6hM11 0x03 ⟨0, false, 4, ⟨10, 10, 10⟩, ⟨10, 10, 10⟩, ⟨0, 0, 0⟩, ⟨0, 0, 0⟩⟩ ∧
    Bc6hCompletes .bc6hM12 0x07 ⟨0, true, 4, ⟨11, 11, 11⟩, ⟨9, 9, 9⟩, ⟨0, 0, 0⟩, ⟨0, 0, 0⟩⟩ ∧
    Bc6hCompletes .bc6hM13 0x0B ⟨0, true, 4, ⟨12, 12, 12⟩, ⟨8, 8, 8⟩, ⟨0, 0, 0⟩, ⟨0, 0, 0⟩⟩ ∧
    Bc6hCompletes .bc6hM14 0x0F ⟨0, true, 4, ⟨16, 16, 16⟩, ⟨4, 4, 4⟩, ⟨0, 0, 0⟩, ⟨0, 0, 0⟩⟩

/-- R212: each reserved BC6H code completes with 16 texels of opaque black and status OK, whatever `signed` and the
ignored bits are. -/
def Obligations.Bc6hReservedCodes : Prop :=
  Bc6hReservedCompletes .bc6hReserved13 0x13 ∧ Bc6hReservedCompletes .bc6hReserved17 0x17 ∧
    Bc6hReservedCompletes .bc6hReserved1B 0x1B ∧ Bc6hReservedCompletes .bc6hReserved1F 0x1F

/-- R276 to R283: each BC7 mode completes with the registers of R260 under its rule's parameters. -/
def Obligations.Bc7Modes : Prop :=
  Bc7Completes .bc7Mode0 0 ⟨2, 4, 6, 0, 0, 3, 0, ⟨4, 4, 4, 0⟩, ⟨5, 5, 5, 0⟩⟩ ∧
    Bc7Completes .bc7Mode1 1 ⟨1, 6, 2, 0, 0, 3, 0, ⟨6, 6, 6, 0⟩, ⟨7, 7, 7, 0⟩⟩ ∧
    Bc7Completes .bc7Mode2 2 ⟨2, 6, 0, 0, 0, 2, 0, ⟨5, 5, 5, 0⟩, ⟨5, 5, 5, 0⟩⟩ ∧
    Bc7Completes .bc7Mode3 3 ⟨1, 6, 4, 0, 0, 2, 0, ⟨7, 7, 7, 0⟩, ⟨8, 8, 8, 0⟩⟩ ∧
    Bc7Completes .bc7Mode4 4 ⟨0, 0, 0, 2, 1, 2, 3, ⟨5, 5, 5, 6⟩, ⟨5, 5, 5, 6⟩⟩ ∧
    Bc7Completes .bc7Mode5 5 ⟨0, 0, 0, 2, 0, 2, 2, ⟨7, 7, 7, 8⟩, ⟨7, 7, 7, 8⟩⟩ ∧
    Bc7Completes .bc7Mode6 6 ⟨0, 0, 2, 0, 0, 4, 0, ⟨7, 7, 7, 7⟩, ⟨8, 8, 8, 8⟩⟩ ∧
    Bc7Completes .bc7Mode7 7 ⟨1, 6, 4, 0, 0, 2, 0, ⟨5, 5, 5, 5⟩, ⟨6, 6, 6, 6⟩⟩

/-- R262: the reserved BC7 mode completes with 16 texels of transparent black and status OK, whatever the ignored bits
are. -/
def Obligations.Bc7ReservedMode : Prop :=
  ∀ (ignored : BitVec 120) (s : State) (a : Activation) (rest : List Activation), s.active = a :: rest →
    exec (.bc7Reserved ignored) s = .next { s with
      active := { a with
        regs := { a.regs with cur := 8, code := 8, out := List.replicate 16 (.rgba8 0 0 0 0), status := .ok },
        phase := .returning } :: rest }

/-- R215, R275: whatever block of either format is decoded, the status is OK. -/
def Obligations.DecodersReturnOk : Prop :=
  ∀ (s : State) (a : Activation) (rest : List Activation), s.active = a :: rest →
    (∀ signed layout blk i, decodeBc6hBlock signed layout blk = .ok i →
        ∃ r, exec i s = .next { s with active := { a with regs := r, phase := .returning } :: rest } ∧
          r.status = .ok ∧ r.out.length = 16) ∧
      ∀ blk, ∃ r, exec (decodeBc7Block blk) s = .next { s with
          active := { a with regs := r, phase := .returning } :: rest } ∧ r.status = .ok ∧ r.out.length = 16

/-- R230 (3): in a one-region mode, with A ≤ B in a channel of base precision p, the half value of the channel does not
fall when the index rises. -/
def Obligations.Bc6hMonotone : Prop :=
  ∀ (signed : Bool) (p : Nat) (a b : Int) (k k' : Nat), p = 10 ∨ p = 11 ∨ p = 12 ∨ p = 16 → a ≤ b →
    (signed = false → 0 ≤ a ∧ b < 2 ^ p) → (signed = true → -(2 ^ (p - 1)) ≤ a ∧ b < 2 ^ (p - 1)) →
    k ≤ k' → k' < 16 →
      halfOrder (Bc6h.channel signed p 4 k a b) ≤ halfOrder (Bc6h.channel signed p 4 k' a b)

/-- R230 (1), (5): for each block and `signed` there are 16 triples of halves that every layout carries, whatever state
the decode runs in: the exact widening of R211 in the FLOAT layouts. -/
def Obligations.LayoutIndependence : Prop :=
  ∀ (signed : Bool) (blk : Block), ∃ hs : List (Half × Half × Half), hs.length = 16 ∧
    ∀ (layout : Layout) (i : Instr) (s t : State) (a : Activation) (rest : List Activation),
      decodeBc6hBlock signed layout blk = .ok i → s.active = a :: rest → exec i s = .next t →
        t.active.head?.map (·.regs.out) = some (hs.map fun h =>
          match layout with
          | .half3 => Texel.half3 h.1 h.2.1 h.2.2
          | .half4 => Texel.half4 h.1 h.2.1 h.2.2 0x3C00#16
          | .float3 => Texel.float3 (Color.h2f h.1) (Color.h2f h.2.1) (Color.h2f h.2.2)
          | .float4 => Texel.float4 (Color.h2f h.1) (Color.h2f h.2.1) (Color.h2f h.2.2) 0x3F800000#32)

/-- R284 (5): every texel of a BC7 block of modes 0 to 3 has alpha 255. -/
def Obligations.Bc7OpaqueModes : Prop :=
  ∀ (f : Bc7Fields) (i : Instr) (s t : State) (a : Activation) (rest : List Activation),
    i = .bc7Mode0 f ∨ i = .bc7Mode1 f ∨ i = .bc7Mode2 f ∨ i = .bc7Mode3 f → i.wf = true → s.active = a :: rest →
      exec i s = .next t →
        ∃ a', t.active = a' :: rest ∧ a'.regs.out.length = 16 ∧
          ∀ x ∈ a'.regs.out, ∃ r g b, x = .rgba8 r g b 255

/-! ### The requests -/

/-- R200, R416: DECODE_BC6H captures the 16 block bytes, runs the block's instruction in a fresh activation, writes its 16
entries and returns OK, wherever the output stands, the block itself included. The bytes of an entry are the model's
choice (log 4). -/
def Obligations.DecodeBc6hCompletes : Prop :=
  ∀ (signed : Bool) (layout : Layout) (blk : Nat) (out : OutRef) (s : State),
    16 ≤ out.entries → s.active = [] → Memory.wf s.mem = true →
      ∃ i r m,
        decodeBc6hBlock signed layout (blockOfBytes (Memory.readBytes s.mem blk 16)) = .ok i ∧
        (let a := fresh s (.bc6h signed layout) (.decode out) (.mem blk) (Memory.readBytes s.mem blk 16)
         exec i (alone s a) = .next (alone s { a with regs := r, phase := .returning })) ∧
        r.out.length = 16 ∧ r.status = .ok ∧
        exec (.decodeBc6h signed layout blk out) s = .next { answered s (.decoded .ok) with mem := m } ∧
        Memory.wf m = true ∧ (r.out.flatMap Texel.bytes).length = 16 * (Fmt.bc6h signed layout).entryBytes ∧
        ∀ c, Memory.read m c =
          if out.addr ≤ c ∧ c < out.addr + 16 * (Fmt.bc6h signed layout).entryBytes
          then (r.out.flatMap Texel.bytes).getD (c - out.addr) 0 else Memory.read s.mem c

/-- R260, R416: DECODE_BC7 captures the 16 block bytes, runs the block's instruction in a fresh activation, writes its 16
entries of 4 bytes and returns OK, wherever the output stands. The bytes of an entry are the model's choice (log 4). -/
def Obligations.DecodeBc7Completes : Prop :=
  ∀ (blk : Nat) (out : OutRef) (s : State), 16 ≤ out.entries → s.active = [] → Memory.wf s.mem = true →
    ∃ r m,
      (let a := fresh s .bc7 (.decode out) (.mem blk) (Memory.readBytes s.mem blk 16)
       exec (decodeBc7Block (blockOfBytes (Memory.readBytes s.mem blk 16))) (alone s a) =
         .next (alone s { a with regs := r, phase := .returning })) ∧
      r.out.length = 16 ∧ r.status = .ok ∧
      exec (.decodeBc7 blk out) s = .next { answered s (.decoded .ok) with mem := m } ∧
      Memory.wf m = true ∧ (r.out.flatMap Texel.bytes).length = 64 ∧
      ∀ c, Memory.read m c =
        if out.addr ≤ c ∧ c < out.addr + 64 then (r.out.flatMap Texel.bytes).getD (c - out.addr) 0
        else Memory.read s.mem c

/-- R350 (a) to (d): an empty texture (R351), a scratch buffer below the block's texel count (R352), a texel out of range
(R354), or a block outside the span (R356, D13): LOAD returns the empty sample and changes nothing else, when no operation
in progress uses its buffer. That a sampler never created has an empty view, and that an OTHER extent of 0 counts as 1, are
the model's choices (log 6, log 8). -/
def Obligations.LoadEmptyCases : Prop :=
  ∀ (scr : Option ScratchRef) (smp : Nat) (t : Vec3) (sel : Selector) (s : State), bufferUnshared s scr →
    (let v := s.samplerView smp
     let g := geometry (s.kindOf v.format) v.format
     let e := v.extent sel.mip
     v.isEmpty = true ∨ scratchCap scr < g.count ∨ ¬ inRange t e ∨
       (v.surface (surfaceOf t sel)).length <
         g.bytes * (t.y.toNat / g.bh * ((e.w.toNat + g.bw - 1) / g.bw) + t.x.toNat / g.bw) + g.bytes) →
      exec (.load scr smp t sel) s = .next (answered s (.sampled .none))

/-- R344, R346, R347, R350 (f): SAMPLE returns the empty sample, and changes nothing else, when a component does not convert
by the formula of R346 and no operation in progress uses its buffer; else it is LOAD of the texel its components convert
to. RoundingNearestEven and WrapRule say what `fl32` and `wrap` are. -/
def Obligations.SampleDelegates : Prop :=
  ∀ (scr : Option ScratchRef) (smp : Nat) (uv : Vec3) (sel : Selector) (s : State),
    (bufferUnshared s scr → (∀ t, ¬ converts (s.samplerView smp) uv sel.mip t) →
        exec (.sample scr smp uv sel) s = .next (answered s (.sampled .none))) ∧
      ∀ t, converts (s.samplerView smp) uv sel.mip t → exec (.sample scr smp uv sel) s = exec (.load scr smp t sel) s

/-- R348, R344, R356, R357, R359, R366, R367, for the block-compressed kinds: with every check passed, LOAD, and SAMPLE of
coordinates that convert to the texel, run the block at 16·(by·⌈w/4⌉ + bx), leave its 16 converted texels in the caller's
entries 0 to 15, and return entry (y mod 4)·4 + (x mod 4). -/
def Obligations.LoadSampleComplete : Prop :=
  ∀ (scr : Option ScratchRef) (smp : Nat) (t : Vec3) (sel : Selector) (s : State) (fmt : Fmt) (sp : Space),
    s.active = [] → Scratch.wf s.scratch = true → (s.samplerView smp).isEmpty = false →
    blockKind (s.kindOf (s.samplerView smp).format) = some (fmt, sp) → 16 ≤ scratchCap scr →
    inRange t ((s.samplerView smp).extent sel.mip) →
    (let span := (s.samplerView smp).surface (surfaceOf t sel)
     let w := ((s.samplerView smp).extent sel.mip).w.toNat
     let off := 16 * (t.y.toNat / 4 * ((w + 3) / 4) + t.x.toNat / 4)
     let entry := t.y.toNat % 4 * 4 + t.x.toNat % 4
     let bytes := (span.drop off).take 16
     off + 16 ≤ span.length →
      ∃ i r m,
        decodeBytes sp Operands.zero bytes = .ok i ∧
        (let a := fresh s fmt (.sampler scr 16 (some entry)) (.span ((s.binding smp).getD 0) (surfaceOf t sel) off) bytes
         exec i (alone s a) = .next (alone s { a with regs := r, phase := .returning })) ∧
        r.out.length = 16 ∧ ScratchAfter s.scratch m scr (r.out.map converted) ∧
        exec (.load scr smp t sel) s = .next
          { answered s (.sampled ((r.out.map converted).getD entry .none)) with scratch := m } ∧
        ∀ uv, converts (s.samplerView smp) uv sel.mip t → exec (.sample scr smp uv sel) s = .next
          { answered s (.sampled ((r.out.map converted).getD entry .none)) with scratch := m })

/-- R348, R358, R363, R367, for kind OTHER: the samples `OtherDecoder` gives are left in the caller's entries, and the
texel's entry is returned, or the empty sample when the status is ERROR. The extents are at least 1 (log 8). -/
def Obligations.LoadOtherFormat : Prop :=
  ∀ (scr : Option ScratchRef) (smp : Nat) (t : Vec3) (sel : Selector) (s : State),
    (let v := s.samplerView smp
     let bw := max 1 (Config.otherBlock v.format).bw
     let bh := max 1 (Config.otherBlock v.format).bh
     let n := (Config.otherBlock v.format).bytes
     let span := v.surface (surfaceOf t sel)
     let off := n * (t.y.toNat / bh * (((v.extent sel.mip).w.toNat + bw - 1) / bw) + t.x.toNat / bw)
     let bytes := (span.drop off).take n
     let samples := (List.range (bw * bh)).map (Config.otherSample v.format bytes)
     s.active = [] → Scratch.wf s.scratch = true → v.isEmpty = false → s.kindOf v.format = .other →
     bw * bh ≤ scratchCap scr → inRange t (v.extent sel.mip) → off + n ≤ span.length →
      ∃ m, ScratchAfter s.scratch m scr samples ∧
        exec (.load scr smp t sel) s = .next
          { answered s (.sampled (if Config.otherStatus v.format bytes = .error then .none
              else samples.getD (t.y.toNat % bh * bw + t.x.toNat % bw) .none)) with scratch := m })

/-- R360: the internal-buffer forms leave the scratch space as it was and return what the caller-buffer forms return with
144 entries, or with more when the format's texel count is at most 144. -/
def Obligations.InternalBufferForm : Prop :=
  ∀ (r : ScratchRef) (smp : Nat) (t uv : Vec3) (sel : Selector) (s : State), s.active = [] →
    (r.cap = 144 ∨ 144 ≤ r.cap ∧
      (geometry (s.kindOf (s.samplerView smp).format) (s.samplerView smp).format).count ≤ 144) →
      (∃ x m, exec (.load none smp t sel) s = .next (answered s x) ∧
          exec (.load (some r) smp t sel) s = .next { answered s x with scratch := m }) ∧
        ∃ x m, exec (.sample none smp uv sel) s = .next (answered s x) ∧
          exec (.sample (some r) smp uv sel) s = .next { answered s x with scratch := m }

/-- R362: two LOADs of the same texel and selectors from the same view and format kind, each with a scratch buffer on the
same side of the capacity check, return the same sample, whatever else their states hold. -/
def Obligations.LoadDeterministic : Prop :=
  ∀ (scr₁ scr₂ : Option ScratchRef) (smp : Nat) (t : Vec3) (sel : Selector) (s₁ s₂ : State),
    s₁.active = [] → s₂.active = [] → s₁.samplerView smp = s₂.samplerView smp →
    s₁.kindOf (s₁.samplerView smp).format = s₂.kindOf (s₂.samplerView smp).format →
    (let n := (geometry (s₁.kindOf (s₁.samplerView smp).format) (s₁.samplerView smp).format).count
     n ≤ scratchCap scr₁ ↔ n ≤ scratchCap scr₂) →
      ∃ x t₁ t₂, exec (.load scr₁ smp t sel) s₁ = .next t₁ ∧ exec (.load scr₂ smp t sel) s₂ = .next t₂ ∧
        t₁.results = s₁.results ++ [⟨s₁.issuer, .sampled x⟩] ∧ t₂.results = s₂.results ++ [⟨s₂.issuer, .sampled x⟩]

/-- R157: a request of any of the five cases is refused: the step that takes it, or that issues it, leaves the queue without
it and changes nothing else, so it has no effect and no result. A request of none of the cases decodes. That the step goes
on is the model's reading (log 10). -/
def Obligations.RefusedRequests : Prop :=
  ∀ (r : Request) (rest : List Request) (s : State), s.queue = r :: rest →
    (let op := r.cmd.extractLsb' 0 2
     let refused := r.cmd.extractLsb' 6 2 ≠ 0#2 ∨ (op ≠ 0b00#2 ∧ r.cmd.extractLsb' 2 3 ≠ 0#3) ∨
       ((op = 0b00#2 ∨ op = 0b01#2) ∧ r.cmd.getLsbD 5 = true) ∨
       ((op = 0b00#2 ∨ op = 0b01#2) ∧ r.ops.out.entries < 16) ∨
       ((op = 0b10#2 ∨ op = 0b11#2) ∧ r.cmd.getLsbD 5 = false ∧ r.ops.scratch = none)
     (refused → (s.agenda = [] → s.active = [] → step s = .next { s with queue := rest }) ∧
        ∀ ev, s.agenda = .issue :: ev → step s = .next { s with agenda := ev, queue := rest }) ∧
       (¬ refused → ∃ i, decodeRequest r.cmd r.ops = .ok i))

/-! ### The step -/

/-- A step runs the decoded instruction: with no event due, the running activation's captured block, else the oldest
request, decoded, is what `exec` runs; an activation of an OTHER format runs `OtherDecoder` (R363; that a block extent of 0
counts as 1 is the model's choice, log 8); a finished activation returns; and with nothing to do the state stays. That a running activation moves before a waiting request is the model's
choice (log 21, log 1), and so is that an idle unit stays as it is (log 15). -/
def Obligations.StepRunsDecoded : Prop :=
  ∀ s : State, s.agenda = [] →
    (∀ a rest sp i, s.active = a :: rest → a.phase = .decoding → a.fmt.space = some sp →
        decodeBytes sp Operands.zero a.bytes = .ok i → step s = exec i s) ∧
      (∀ a rest format, s.active = a :: rest → a.phase = .decoding → a.fmt = .other format →
        (let n := max 1 (Config.otherBlock format).bw * max 1 (Config.otherBlock format).bh
         step s = .next { s with
           active := { a with
             regs := { a.regs with
               out := (List.range n).map fun k => .other (Config.otherSample format a.bytes k),
               status := Config.otherStatus format a.bytes },
             phase := .returning } :: rest })) ∧
      (∀ a rest, s.active = a :: rest → a.phase = .returning →
        step s = .next (State.deliverTo { s with active := rest } a)) ∧
      (∀ r rest i, s.active = [] → s.queue = r :: rest → decodeRequest r.cmd r.ops = .ok i →
        step s = exec i { s with queue := rest, issuer := r.requester }) ∧
      (s.active = [] → s.queue = [] → step s = .next s)

/-- The state with a table word placed makes the very next step run the word's instruction: the oldest request's, or the
block's of the one activation placed. -/
def Obligations.FetchedWordRuns : Prop :=
  ∀ (s : State) (nbits w : Nat) (i : Instr), decodeTableWord nbits w = some i →
    (tableSpace nbits w = .request →
        step (s.withFetchWord nbits w) = exec i { s with agenda := [], active := [], issuer := 0 }) ∧
      (tableSpace nbits w ≠ .request → step (s.withFetchWord nbits w) = exec i (s.withFetchWord nbits w))

/-- R411, R361, R414: every operation that is issued begins a fresh activation of its requester, with the start values and
the buffer its request names; only a LOAD or SAMPLE that failed a check is not to decode. It is marked raced exactly when
an operation in progress shares its buffer, and so is every such operation; nothing else changes. What counts as sharing,
and the marks, are the model's (log 22, log 29). -/
def Obligations.ActivationStart : Prop :=
  ∀ (s : State) (ev : List Event) (r : Request) (rest : List Request) (i : Instr),
    s.agenda = .issue :: ev → s.queue = r :: rest → decodeRequest r.cmd r.ops = .ok i →
      ∃ a : Activation, a.requester = r.requester ∧ a.regs = startRegs ∧ usesBuffer i a.client ∧
        (a.phase = .returning → ∃ scr n, a.client = .sampler scr n none) ∧
        (a.raced = true ↔ ∃ b ∈ s.active, a.shares b = true) ∧
        step s = .next { s with
          agenda := ev, queue := rest, issuer := r.requester,
          active := a :: s.active.map fun b => if a.shares b = true then { b with raced := true } else b }

/-! ### Frames -/

/-- The frame of every block instruction: only the running activation's registers and phase change; a BC6H block leaves
`rot`, `imode`, the P-bits, `w2` and the endpoints of region 2, and a reserved one leaves all but `cur`, `code`, `out` and
`status`. -/
def Obligations.BlockFrame : Prop :=
  ∀ (i : Instr) (s t : State), isRequest i = false → exec i s = .next t →
    ∃ a rest r, s.active = a :: rest ∧
      t = { s with active := { a with regs := r, phase := .returning } :: rest } ∧
      (∀ signed layout blk, encode i = .bc6h signed layout blk →
        r.rot = a.regs.rot ∧ r.imode = a.regs.imode ∧ r.pbits = a.regs.pbits ∧ r.w2 = a.regs.w2 ∧
          r.ends.drop 4 = a.regs.ends.drop 4) ∧
      ((∃ sg l x, i = .bc6hReserved13 sg l x ∨ i = .bc6hReserved17 sg l x ∨ i = .bc6hReserved1B sg l x ∨
          i = .bc6hReserved1F sg l x) ∨ (∃ x, i = .bc7Reserved x) →
        r = { a.regs with cur := r.cur, code := r.code, out := r.out, status := r.status })

/-- The frame of DECODE_BC6H and DECODE_BC7: every byte of memory outside the 16 entries of the output buffer, the scratch
space, the views, the bindings, the queue, and the registers of every other operation in progress are as before. -/
def Obligations.DecodeFrame : Prop :=
  ∀ (signed : Bool) (layout : Layout) (blk : Nat) (out : OutRef) (s t : State) (fmt : Fmt) (i : Instr),
    (i = .decodeBc6h signed layout blk out ∧ fmt = .bc6h signed layout) ∨ (i = .decodeBc7 blk out ∧ fmt = .bc7) →
    exec i s = .next t →
      (∀ c, c < out.addr ∨ out.addr + 16 * fmt.entryBytes ≤ c → Memory.read t.mem c = Memory.read s.mem c) ∧
        t.scratch = s.scratch ∧ t.views = s.views ∧ t.samplers = s.samplers ∧ t.formats = s.formats ∧
        t.queue = s.queue ∧ t.agenda = s.agenda ∧ t.issuer = s.issuer ∧
        t.active.map (·.regs) = s.active.map (·.regs)

/-- The frame of LOAD and SAMPLE: all of requester memory, every scratch entry outside the caller's entries 0 to count − 1
(all of them for the internal buffer), the views, the bindings, the queue, and the registers of every other operation in
progress are as before. -/
def Obligations.LoadSampleFrame : Prop :=
  ∀ (scr : Option ScratchRef) (smp : Nat) (t uv : Vec3) (sel : Selector) (s s' : State),
    exec (.load scr smp t sel) s = .next s' ∨ exec (.sample scr smp uv sel) s = .next s' →
      s'.mem = s.mem ∧ (scr = none → s'.scratch = s.scratch) ∧
        (∀ r, scr = some r → ∀ e, e < r.base ∨ r.base + (geometry (s.kindOf (s.samplerView smp).format)
            (s.samplerView smp).format).count ≤ e → Scratch.read s'.scratch e = Scratch.read s.scratch e) ∧
        s'.views = s.views ∧ s'.samplers = s.samplers ∧ s'.formats = s.formats ∧ s'.queue = s.queue ∧
        s'.agenda = s.agenda ∧ s'.issuer = s.issuer ∧ s'.active.map (·.regs) = s.active.map (·.regs)

/-- R82, R34: no instruction writes a surface span, a binding or a format's kind; and a step changes a view only by
another agent's write of it, the bindings only by the host's creation of a sampler. -/
def Obligations.TexturesReadOnly : Prop :=
  (∀ (i : Instr) (s t : State), exec i s = .next t →
      t.views = s.views ∧ t.samplers = s.samplers ∧ t.formats = s.formats) ∧
    ∀ s t : State, step s = .next t →
      t.formats = s.formats ∧
        (t.views = s.views ∨ ∃ v sel off b, s.agenda.head? = some (.spanWrite v sel off b)) ∧
        (t.samplers = s.samplers ∨ ∃ smp v, s.agenda.head? = some (.createSampler smp v))

/-- R34, R412: the view a sampler is bound to never changes once it is bound; and the host's creation of a sampler binds a
number that is unbound to its view, and changes nothing else. That a number already bound keeps its view is the model's
reading (log 20). -/
def Obligations.BindingFixed : Prop :=
  (∀ (s t : State) (smp v : Nat), s.binding smp = some v → step s = .next t → t.binding smp = some v) ∧
    ∀ (s : State) (ev : List Event) (smp v : Nat), s.agenda = .createSampler smp v :: ev →
      ∃ t, step s = .next t ∧ t = { s with agenda := ev, samplers := t.samplers } ∧
        ∀ n, t.binding n = if n = smp ∧ s.binding smp = none then some v else s.binding n

/-! ### Invariants and whole-machine rules -/

/-- R45, R410: after reset no operation is in progress, and the invariants hold. -/
def Obligations.ResetInvariants : Prop :=
  State.reset.active = [] ∧ State.reset.Inv ∧ State.reset.RegsInRange ∧ State.reset.SharersRaced ∧
    State.reset.HazardFree

/-- Every step keeps the invariant: canonical memories and tables, and every activation in progress in shape, its cursor
within 0..128 (R31, R173). -/
def Obligations.StepKeepsInvariant : Prop :=
  ∀ s t : State, s.Inv → step s = .next t → t.Inv

/-- R380, R385: from every state of the invariant a step answers a next state: no exception, no fault, no refusal. -/
def Obligations.StepAlwaysCompletes : Prop :=
  ∀ s : State, s.Inv → ∃ t, step s = .next t

/-- R30: every step keeps the working registers in the ranges of the rule's table: no rule takes a BC6H endpoint channel
outside −32768..65535, nor a BC7 one outside 0..255. -/
def Obligations.StepKeepsRanges : Prop :=
  ∀ s t : State, s.Inv → s.RegsInRange → step s = .next t → t.RegsInRange

/-- R414: every step keeps any two operations in progress that share a buffer marked, so that their results are free
values. What counts as sharing, and that both are marked from the start of the second until they return, are the model's
(log 22). -/
def Obligations.StepMarksSharers : Prop :=
  ∀ s t : State, s.SharersRaced → step s = .next t → t.SharersRaced

/-- R419: an operation in several steps (issued, decoded, returned) ends as the operation in one step does, the model's form
of it when no event is due (log 1). -/
def Obligations.StepwiseIsAtomic : Prop :=
  ∀ s : State, s.agenda = [] → s.active = [] →
    steps 3 { s with agenda := [.issue, .advance 0, .advance 0] } = step s

/-- R90 (1), R393: two operations in progress, their blocks captured, on distinct buffers (log 22) give the same memory,
scratch space and results under every interleaving of their steps (whole steps, log 1), each the result it gives alone. -/
def Obligations.OperationsCommute : Prop :=
  ∀ (s : State) (a b : Activation), Memory.wf s.mem = true → Scratch.wf s.scratch = true →
    a.ok = true → b.ok = true → a.phase = .decoding → b.phase = .decoding → a.raced = false → b.raced = false →
    a.shares b = false →
    (∀ out, a.client = .decode out → ∀ c, out.addr ≤ c → c < out.addr + a.fmt.outBytes → b.memByte c = none) →
    (∀ out, b.client = .decode out → ∀ c, out.addr ≤ c → c < out.addr + b.fmt.outBytes → a.memByte c = none) →
      ∃ m sc ra rb,
        (∀ ks ∈ [[0, 0, 0, 0], [0, 1, 1, 0], [0, 1, 0, 0], [1, 0, 0, 0], [1, 1, 1, 0], [1, 1, 0, 0]],
          ∃ t, steps 4 { s with active := [a, b], agenda := ks.map Event.advance } = .next t ∧
            t.mem = m ∧ t.scratch = sc ∧ t.active = [] ∧ t.freeCount = s.freeCount ∧
            (t.results = s.results ++ [ra, rb] ∨ t.results = s.results ++ [rb, ra])) ∧
        (∃ t, steps 2 { s with active := [a], agenda := [.advance 0, .advance 0] } = .next t ∧
          t.results = s.results ++ [ra]) ∧
        ∃ t, steps 2 { s with active := [b], agenda := [.advance 0, .advance 0] } = .next t ∧
          t.results = s.results ++ [rb]

/-- R414: a LOAD or SAMPLE marked raced, one that failed a check too, returns a free sample and leaves free samples in its
entries, and a raced DECODE a free status and free bytes, whatever the counter holds. Nothing else of the machine is
affected, but that where a DECODE writes a byte which another operation still reads, its captured byte is the old one or
the free one written (R415). -/
def Obligations.RacedResultsFree : Prop :=
  ∀ (s : State) (a : Activation) (rest : List Activation), s.agenda = [] → s.active = a :: rest →
    a.phase = .returning → a.raced = true →
      (∀ scr count entry, a.client = .sampler scr count entry → Scratch.wf s.scratch = true →
        ∃ m, ScratchAfter s.scratch m scr ((List.range count).map fun k => Config.freeSample (s.freeCount + 1 + k)) ∧
          step s = .next { s with
            active := rest, scratch := m, freeCount := s.freeCount + 1 + count,
            results := s.results ++ [⟨a.requester, .sampled (Config.freeSample s.freeCount)⟩] }) ∧
        ∀ out, a.client = .decode out → Memory.wf s.mem = true →
          ∃ t, step s = .next t ∧
            t = { s with
              mem := t.mem, active := t.active, freeCount := t.freeCount,
              results := s.results ++ [⟨a.requester, .decoded (Config.freeStatus s.freeCount)⟩] } ∧
            t.active.length = rest.length ∧
            (∀ (k : Nat) (b b' : Activation), rest[k]? = some b → t.active[k]? = some b' →
              b' = { b with bytes := b'.bytes } ∧ b'.bytes.length = b.bytes.length ∧
                ∀ j, b'.bytes[j]? = b.bytes[j]? ∨
                  ∃ c, out.addr ≤ c ∧ c < out.addr + a.fmt.outBytes ∧ b.memByte c = some j ∧
                    b'.bytes[j]? = some (Config.freeByte (s.freeCount + 1 + (c - out.addr)))) ∧
            ∀ c, Memory.read t.mem c =
              if out.addr ≤ c ∧ c < out.addr + a.fmt.outBytes then Config.freeByte (s.freeCount + 1 + (c - out.addr))
              else Memory.read s.mem c

/-- R415: a byte of requester memory or of a surface that another agent writes holds the new value, every other byte and all
else as before; and the write leaves each captured block of the operations in progress as it was but for that byte, which
is the old or the new value. -/
def Obligations.TornBytes : Prop :=
  ∀ (s : State) (e : Event) (ev : List Event) (x : Byte), s.agenda = e :: ev →
    ((∃ addr, e = .memWrite addr x) ∨ ∃ v sel off, e = .spanWrite v sel off x) →
      ∃ t, step s = .next t ∧
        t = { s with
          agenda := ev, mem := t.mem, views := t.views, active := t.active, freeCount := t.freeCount } ∧
        (∀ addr, e = .memWrite addr x → t.views = s.views ∧
          (Memory.wf s.mem = true → ∀ c, Memory.read t.mem c = if c = addr then x else Memory.read s.mem c)) ∧
        (∀ v sel off, e = .spanWrite v sel off x → t.mem = s.mem ∧
          (Sparse.wf TextureView.absent s.views = true → ∀ v',
            (t.view v').format = (s.view v').format ∧ (t.view v').isEmpty = (s.view v').isEmpty ∧
              (t.view v').extents = (s.view v').extents ∧
              ∀ sel', (t.view v').surface sel' =
                if v' = v ∧ sel' = sel then ((s.view v).surface sel).set off x else (s.view v').surface sel')) ∧
        t.active.length = s.active.length ∧
        ∀ (k j : Nat) (a a' : Activation), s.active[k]? = some a → t.active[k]? = some a' →
          a' = { a with bytes := a'.bytes } ∧ a'.bytes.length = a.bytes.length ∧
            (a'.bytes[j]? = a.bytes[j]? ∨
              (a'.bytes[j]? = some x ∧ a.phase = .decoding ∧
                ((∃ addr base, e = .memWrite addr x ∧ a.src = .mem base ∧ addr = base + j) ∨
                  ∃ v sel off base, e = .spanWrite v sel off x ∧ a.src = .span v sel base ∧ off = base + j)))

/-! ### The binary32 arithmetic of the sampler -/

/-- R7: a binary32 pattern has its value; `fl32` of a quotient is the binary32 nearest to it, on a tie the one whose pattern
is even, infinity standing as 2^128 and the sign kept; and so a binary32 value is rounded to itself. -/
def Obligations.RoundingNearestEven : Prop :=
  (∀ x : F32, Fl32.ofBits x = f32Value x) ∧
    (∀ (num : Int) (den : Nat), 0 < den →
      (let err := fun b : Nat => ((f32Magnitude b * den : Nat) - (num.natAbs * 2 ^ 149 : Nat) : Int).natAbs
       ∃ m, m ≤ 0x7F800000 ∧
        Fl32.fl32 num den =
          (if m = 0x7F800000 then .inf (decide (num < 0))
           else .finite (if num < 0 then -(f32Magnitude m : Int) else f32Magnitude m)) ∧
        ∀ b, b ≤ 0x7F800000 → b ≠ m → err m ≤ err b ∧ (err m = err b → m % 2 = 0))) ∧
    ∀ (x : F32) (n : Int), f32Value x = .finite n → Fl32.fl32 n (2 ^ 149) = .finite n

/-- R345: a finite component not above 1.0 is kept; one above loses its integer part, exactly, and the difference is a
binary32 value; +∞ becomes NaN, −∞ and NaN are kept. -/
def Obligations.WrapRule : Prop :=
  (∀ (x : F32) (n : Int), Fl32.ofBits x = .finite n →
      (n ≤ Fl32.one → Fl32.wrap (.finite n) = .finite n) ∧
        (Fl32.one < n → ∃ k : Int, 1 ≤ k ∧ Fl32.wrap (.finite n) = .finite (n - k * Fl32.one) ∧
          0 ≤ n - k * Fl32.one ∧ n - k * Fl32.one < Fl32.one) ∧
        ∃ y, Fl32.ofBits y = Fl32.wrap (.finite n)) ∧
    Fl32.wrap (.inf false) = .nan ∧ Fl32.wrap (.inf true) = .inf true ∧ Fl32.wrap .nan = .nan

/-- R366: `fl32(c / 255)` of each 8-bit channel is no farther from the quotient than either neighbouring binary32. -/
def Obligations.Unorm8Nearest : Prop :=
  ∀ c < 256,
    let x := (Fl32.unorm8 (BitVec.ofNat 8 c)).toNat
    let err := fun b : Nat => ((Fl32.unitsOf b : Int) * 255 - c * Fl32.one).natAbs
    x < 0x7F800000 ∧ err x ≤ err (x + 1) ∧ err x ≤ err (x - 1)

end
end

