-- ==== Sys2Proof/Laws/Cursor.lean ====
section
/-! SUPPORT. The laws of the bit cursor (R170 to R172): a block put together from bits or fields is read back by it. -/

namespace Sys2Proof

namespace Bits

@[simp] theorem toNat_nil : toNat [] = 0 := rfl

/-- Bit k of the number of a bit list is its k-th bit. -/
theorem testBit_toNat : ∀ (bs : List Bool) (k : Nat), (toNat bs).testBit k = bs.getD k false
  | [], k => by simp
  | b :: bs, 0 => by
    cases b <;> simp [toNat, Nat.testBit_zero]
  | b :: bs, k + 1 => by
    have : (b.toNat + 2 * toNat bs) / 2 = toNat bs := by cases b <;> (simp; try omega)
    rw [toNat, Nat.testBit_succ, this, testBit_toNat bs k, List.getD_cons_succ]

theorem toNat_lt : ∀ bs : List Bool, toNat bs < 2 ^ bs.length
  | [] => by simp
  | b :: bs => by
    have := toNat_lt bs
    rw [toNat, List.length_cons, Nat.pow_succ]
    cases b <;> simp <;> omega

theorem toNat_toBlock (bs : List Bool) (h : bs.length ≤ 128) : (toBlock bs).toNat = toNat bs := by
  have h1 := toNat_lt bs
  have h2 : 2 ^ bs.length ≤ 2 ^ 128 := Nat.pow_le_pow_right (by decide) h
  rw [toBlock, BitVec.toNat_ofNat, Nat.mod_eq_of_lt (by omega)]

/-- Bit k of the block of a bit list is its k-th bit (R6). -/
theorem getLsbD_toBlock (bs : List Bool) (h : bs.length ≤ 128) (k : Nat) :
    (toBlock bs).getLsbD k = bs.getD k false := by
  rw [BitVec.getLsbD, toNat_toBlock bs h, testBit_toNat]

@[simp] theorem length_ofField (n v : Nat) : (ofField n v).length = n := by simp [ofField]

theorem getD_ofField (n v k : Nat) : (ofField n v).getD k false = (decide (k < n) && v.testBit k) := by
  unfold ofField
  by_cases h : k < n
  · simp [h, List.getD_eq_getElem?_getD]
  · simp [h, List.getD_eq_getElem?_getD]

/-- A field within its width is the number of its own bits. -/
theorem toNat_ofField (n v : Nat) (h : v < 2 ^ n) : toNat (ofField n v) = v := by
  apply Nat.eq_of_testBit_eq
  intro k
  rw [testBit_toNat, getD_ofField]
  by_cases hk : k < n
  · simp [hk]
  · have : v.testBit k = false := Nat.testBit_lt_two_pow (Nat.lt_of_lt_of_le h (Nat.pow_le_pow_right (by decide) (by omega)))
    simp [this]

theorem toNat_append : ∀ a b : List Bool, toNat (a ++ b) = toNat a + 2 ^ a.length * toNat b
  | [], b => by simp
  | x :: a, b => by
    rw [List.cons_append, toNat, toNat, toNat_append a b, List.length_cons, Nat.pow_succ]
    ring

/-- `GetBits` at the start of a field reads the field (R171). -/
theorem getBits_toBlock (pre post : List Bool) (n v : Nat) (h : v < 2 ^ n)
    (hl : (pre ++ ofField n v ++ post).length ≤ 128) :
    getBits (toBlock (pre ++ ofField n v ++ post)) pre.length n = (v, pre.length + n) := by
  have h1 := toNat_lt pre
  have h2 : toNat (pre ++ ofField n v ++ post) = toNat pre + 2 ^ pre.length * (v + 2 ^ n * toNat post) := by
    rw [List.append_assoc, toNat_append, toNat_append, toNat_ofField n v h, length_ofField]
  rw [getBits, toNat_toBlock _ hl, h2, Nat.shiftRight_eq_div_pow, Nat.add_mul_div_left _ _ (Nat.two_pow_pos _),
    Nat.div_eq_of_lt h1, Nat.zero_add, Nat.add_mul_mod_self_left, Nat.mod_eq_of_lt h]

theorem length_ofFields : ∀ ws vs : List Nat, ws.length = vs.length → (ofFields ws vs).length = ws.sum
  | [], _, _ => by simp [ofFields]
  | w :: ws, [], h => by simp at h
  | w :: ws, v :: vs, h => by
    rw [ofFields, List.length_append, length_ofField, length_ofFields ws vs (by simpa using h), List.sum_cons]

/-- Consecutive `GetBits` at the start of consecutive fields read the fields. -/
theorem getList_toBlock : ∀ (ws vs : List Nat) (pre post : List Bool), fieldsFit ws vs = true →
    (pre ++ ofFields ws vs ++ post).length ≤ 128 →
    getList (toBlock (pre ++ ofFields ws vs ++ post)) pre.length ws = (vs, pre.length + ws.sum)
  | [], [], pre, post, _, _ => rfl
  | [], v :: vs, _, _, h, _ => by simp [fieldsFit] at h
  | w :: ws, [], _, _, h, _ => by simp [fieldsFit] at h
  | w :: ws, v :: vs, pre, post, h, hl => by
    simp only [fieldsFit, Bool.and_eq_true, decide_eq_true_eq] at h
    have e1 : pre ++ ofFields (w :: ws) (v :: vs) ++ post = pre ++ ofField w v ++ (ofFields ws vs ++ post) := by
      simp [ofFields]
    have e2 : pre ++ ofField w v ++ (ofFields ws vs ++ post) = (pre ++ ofField w v) ++ ofFields ws vs ++ post := by
      simp
    have g1 := getBits_toBlock pre (ofFields ws vs ++ post) w v h.1 (by rw [← e1]; exact hl)
    have g2 := getList_toBlock ws vs (pre ++ ofField w v) post h.2 (by rw [← e2, ← e1]; exact hl)
    rw [← e2, List.length_append, length_ofField] at g2
    rw [e1]
    unfold getList
    rw [g1, g2]
    simp [Nat.add_assoc]

/-- What `GetBits` reads lies below 2^n (R171). -/
theorem getBits_lt (blk : Block) (cur n : Nat) : (getBits blk cur n).1 < 2 ^ n :=
  Nat.mod_lt _ (Nat.two_pow_pos n)

/-- The values read fit the widths they were read with. -/
theorem fieldsFit_getList (blk : Block) : ∀ (ws : List Nat) (cur : Nat), fieldsFit ws (getList blk cur ws).1 = true
  | [], _ => rfl
  | w :: ws, cur => by
    simp only [getList, fieldsFit, Bool.and_eq_true, decide_eq_true_eq]
    exact ⟨getBits_lt blk cur w, fieldsFit_getList blk ws (cur + w)⟩

theorem getList_cursor (blk : Block) : ∀ (ws : List Nat) (cur : Nat), (getList blk cur ws).2 = cur + ws.sum
  | [], _ => rfl
  | w :: ws, cur => by
    rw [getList, List.sum_cons, getList_cursor blk ws (cur + w)]
    omega

end Bits

theorem fieldsFit_length : ∀ ws vs : List Nat, fieldsFit ws vs = true → vs.length = ws.length
  | [], [], _ => rfl
  | [], _ :: _, h => by simp [fieldsFit] at h
  | _ :: _, [], h => by simp [fieldsFit] at h
  | w :: ws, v :: vs, h => by
    simp only [fieldsFit, Bool.and_eq_true] at h
    simp [fieldsFit_length ws vs h.2]

end Sys2Proof
end

