-- ==== Sys2Proof/Laws/Memory.lean ====
section
/-! SUPPORT. The laws of the sparse memories: read after write, the canonical form, and equality by reading; then the same
of requester memory and of the scratch space. -/

namespace Sys2Proof

namespace Sparse

variable {β : Type}

@[simp] theorem read_nil (d : β) (a : Nat) : read d [] a = d := rfl

theorem read_cons (d : β) (k : Nat) (v : β) (m : Sparse β) (a : Nat) :
    read d ((k, v) :: m) a = if a = k then v else read d m a := rfl

variable [DecidableEq β]

/-- Below its lower bound a memory in canonical form lists nothing. -/
theorem read_of_lt (d : β) : ∀ (m : Sparse β) (lo a : Nat), wfFrom d lo m = true → a < lo → read d m a = d
  | [], _, _, _, _ => rfl
  | (k, v) :: m, lo, a, h, ha => by
    simp only [wfFrom, Bool.and_eq_true, decide_eq_true_eq] at h
    rw [read_cons, if_neg (by omega), read_of_lt d m (k + 1) a h.2 (by omega)]

theorem wfFrom_mono (d : β) : ∀ (m : Sparse β) (lo lo' : Nat), lo' ≤ lo → wfFrom d lo m = true → wfFrom d lo' m = true
  | [], _, _, _, _ => rfl
  | (k, v) :: m, lo, lo', hl, h => by
    simp only [wfFrom, Bool.and_eq_true, decide_eq_true_eq] at h ⊢
    exact ⟨⟨by omega, h.1.2⟩, h.2⟩

/-- A write leaves every other key as it was. -/
theorem read_write_other (d : β) : ∀ (m : Sparse β) (a b : Nat) (v : β), b ≠ a → read d (write d m a v) b = read d m b
  | [], a, b, v, h => by
    by_cases hv : v = d <;> simp [write, hv, read_cons, h]
  | (k, w) :: m, a, b, v, h => by
    have ih := read_write_other d m a b v h
    by_cases h1 : a < k
    · by_cases hv : v = d <;> simp [write, h1, hv, read_cons, h]
    · by_cases h2 : a = k
      · subst h2
        by_cases hv : v = d <;> simp [write, hv, read_cons, h]
      · simp only [write, h1, h2, if_false, read_cons, ih]

/-- The key written reads as the value written. -/
theorem read_write_same (d : β) : ∀ (m : Sparse β) (lo a : Nat) (v : β), wfFrom d lo m = true →
    read d (write d m a v) a = v
  | [], _, a, v, _ => by
    by_cases hv : v = d <;> simp [write, hv, read_cons]
  | (k, w) :: m, lo, a, v, h => by
    simp only [wfFrom, Bool.and_eq_true, decide_eq_true_eq] at h
    by_cases h1 : a < k
    · by_cases hv : v = d
      · simp [write, h1, hv, read_cons, Nat.ne_of_lt h1, read_of_lt d m (k + 1) a h.2 (by omega)]
      · simp [write, h1, hv, read_cons]
    · by_cases h2 : a = k
      · subst h2
        by_cases hv : v = d
        · simp [write, hv, read_of_lt d m (a + 1) a h.2 (by omega)]
        · simp [write, hv, read_cons]
      · simp only [write, h1, h2, if_false, read_cons]
        exact read_write_same d m (k + 1) a v h.2

/-- A value that is listed is read back whatever the memory's form. -/
theorem read_write_same_of_ne (d : β) : ∀ (m : Sparse β) (a : Nat) (v : β), v ≠ d → read d (write d m a v) a = v
  | [], a, v, hv => by simp [write, hv, read_cons]
  | (k, w) :: m, a, v, hv => by
    by_cases h1 : a < k
    · simp [write, h1, hv, read_cons]
    · by_cases h2 : a = k
      · simp [write, h2, hv, read_cons]
      · simp only [write, h1, h2, if_false, read_cons]
        exact read_write_same_of_ne d m a v hv

/-- A write keeps the canonical form. -/
theorem wfFrom_write (d : β) : ∀ (m : Sparse β) (lo a : Nat) (v : β), wfFrom d lo m = true → lo ≤ a →
    wfFrom d lo (write d m a v) = true
  | [], lo, a, v, _, ha => by
    by_cases hv : v = d <;> simp [write, hv, wfFrom, ha]
  | (k, w) :: m, lo, a, v, h, ha => by
    have h' := h
    simp only [wfFrom, Bool.and_eq_true, decide_eq_true_eq] at h
    by_cases h1 : a < k
    · by_cases hv : v = d
      · simpa [write, h1, hv] using h'
      · simp only [write, h1, hv, if_true, if_false, wfFrom, Bool.and_eq_true, decide_eq_true_eq]
        exact ⟨⟨ha, hv⟩, ⟨by omega, h.1.2⟩, h.2⟩
    · by_cases h2 : a = k
      · subst h2
        by_cases hv : v = d
        · simp only [write, lt_irrefl, hv, if_true, if_false]
          exact wfFrom_mono d m (a + 1) lo (by omega) h.2
        · simp only [write, lt_irrefl, hv, if_true, if_false, wfFrom, Bool.and_eq_true, decide_eq_true_eq]
          exact ⟨⟨ha, hv⟩, h.2⟩
      · simp only [write, h1, h2, if_false, wfFrom, Bool.and_eq_true, decide_eq_true_eq]
        exact ⟨h.1, wfFrom_write d m (k + 1) a v h.2 (by omega)⟩

theorem wf_write (d : β) (m : Sparse β) (a : Nat) (v : β) (h : wf d m = true) : wf d (write d m a v) = true :=
  wfFrom_write d m 0 a v h (Nat.zero_le a)

/-- Two memories in canonical form that read the same are the same. -/
theorem ext_read (d : β) : ∀ (m m' : Sparse β) (lo lo' : Nat), wfFrom d lo m = true → wfFrom d lo' m' = true →
    (∀ a, read d m a = read d m' a) → m = m'
  | [], [], _, _, _, _, _ => rfl
  | [], (k, v) :: m', _, _, _, h', he => by
    simp only [wfFrom, Bool.and_eq_true, decide_eq_true_eq] at h'
    have := he k
    simp [read_cons] at this
    exact absurd this.symm h'.1.2
  | (k, v) :: m, [], _, _, h, _, he => by
    simp only [wfFrom, Bool.and_eq_true, decide_eq_true_eq] at h
    have := he k
    simp [read_cons] at this
    exact absurd this h.1.2
  | (k, v) :: m, (k', v') :: m', _, _, h, h', he => by
    simp only [wfFrom, Bool.and_eq_true, decide_eq_true_eq] at h h'
    have hk : k = k' := by
      rcases Nat.lt_trichotomy k k' with hlt | heq | hgt
      · have := he k
        rw [read_cons, if_pos rfl, read_cons, if_neg (by omega), read_of_lt d m' (k' + 1) k h'.2 (by omega)] at this
        exact absurd this h.1.2
      · exact heq
      · have := he k'
        rw [read_cons, if_neg (by omega), read_cons, if_pos rfl, read_of_lt d m (k + 1) k' h.2 (by omega)] at this
        exact absurd this.symm h'.1.2
    subst hk
    have hv : v = v' := by simpa [read_cons] using he k
    subst hv
    have hm : m = m' := ext_read d m m' (k + 1) (k + 1) h.2 h'.2 fun a => by
      by_cases ha : a = k
      · subst ha
        rw [read_of_lt d m (a + 1) a h.2 (by omega), read_of_lt d m' (a + 1) a h'.2 (by omega)]
      · simpa [read_cons, ha] using he a
    rw [hm]

theorem eq_of_read_eq (d : β) (m m' : Sparse β) (h : wf d m = true) (h' : wf d m' = true)
    (he : ∀ a, read d m a = read d m' a) : m = m' :=
  ext_read d m m' 0 0 h h' he

end Sparse

namespace Machine

namespace Memory

theorem read_write_same (m : Sparse Byte) (a : Nat) (b : Byte) (h : wf m = true) : read (write m a b) a = b :=
  Sparse.read_write_same unwritten m 0 a b h

theorem read_write_other (m : Sparse Byte) (a c : Nat) (b : Byte) (h : c ≠ a) : read (write m a b) c = read m c :=
  Sparse.read_write_other unwritten m a c b h

theorem wf_write (m : Sparse Byte) (a : Nat) (b : Byte) (h : wf m = true) : wf (write m a b) = true :=
  Sparse.wf_write unwritten m a b h

@[simp] theorem length_readBytes (m : Sparse Byte) (a n : Nat) : (readBytes m a n).length = n := by
  simp [readBytes]

end Memory

namespace Scratch

theorem wf_write (m : Sparse Sample) (a : Nat) (s : Sample) (h : wf m = true) : wf (write m a s) = true :=
  Sparse.wf_write Sample.none m a s h

theorem wf_writeAll : ∀ (m : Sparse Sample) (a : Nat) (ss : List Sample), wf m = true → wf (writeAll m a ss) = true
  | _, _, [], h => h
  | m, a, s :: ss, h => wf_writeAll (write m a s) (a + 1) ss (wf_write m a s h)

/-- What an entry holds after consecutive entries were written. -/
theorem read_writeAll : ∀ (m : Sparse Sample) (a : Nat) (ss : List Sample) (b : Nat), wf m = true →
    read (writeAll m a ss) b = if a ≤ b ∧ b < a + ss.length then ss.getD (b - a) .none else read m b
  | m, a, [], b, _ => by simp only [writeAll, List.length_nil]; rw [if_neg (by omega)]
  | m, a, s :: ss, b, h => by
    have hw := wf_write m a s h
    rw [writeAll, read_writeAll (write m a s) (a + 1) ss b hw]
    by_cases hb : b = a
    · subst hb
      rw [if_neg (by omega), if_pos (by simp), Nat.sub_self]
      simpa [read, write] using Sparse.read_write_same Sample.none m 0 b s h
    · by_cases h1 : a + 1 ≤ b ∧ b < a + 1 + ss.length
      · rw [if_pos h1, if_pos (by simp; omega)]
        have : b - a = (b - (a + 1)) + 1 := by omega
        rw [this, List.getD_cons_succ]
      · rw [if_neg h1, if_neg (by simp; omega)]
        exact Sparse.read_write_other Sample.none m a b s hb

end Scratch

end Machine

end Sys2Proof
end

