-- ==== Sys2Proof/Laws/State.lean ====
section
/-! SUPPORT. One lemma for each field of State under each named update: what the update leaves as it was. -/

namespace Sys2Proof.Machine

/-! ### storeByte -/

@[simp] theorem State.storeByte_scratch (s : State) (a : Nat) (b : Byte) : (s.storeByte a b).scratch = s.scratch := rfl
@[simp] theorem State.storeByte_views (s : State) (a : Nat) (b : Byte) : (s.storeByte a b).views = s.views := rfl
@[simp] theorem State.storeByte_samplers (s : State) (a : Nat) (b : Byte) : (s.storeByte a b).samplers = s.samplers := rfl
@[simp] theorem State.storeByte_formats (s : State) (a : Nat) (b : Byte) : (s.storeByte a b).formats = s.formats := rfl
@[simp] theorem State.storeByte_queue (s : State) (a : Nat) (b : Byte) : (s.storeByte a b).queue = s.queue := rfl
@[simp] theorem State.storeByte_issuer (s : State) (a : Nat) (b : Byte) : (s.storeByte a b).issuer = s.issuer := rfl
@[simp] theorem State.storeByte_results (s : State) (a : Nat) (b : Byte) : (s.storeByte a b).results = s.results := rfl
@[simp] theorem State.storeByte_agenda (s : State) (a : Nat) (b : Byte) : (s.storeByte a b).agenda = s.agenda := rfl

@[simp] theorem State.storeByte_mem (s : State) (a : Nat) (b : Byte) : (s.storeByte a b).mem = Memory.write s.mem a b := rfl

/-! ### storeBytes -/

@[simp] theorem State.storeBytes_scratch : ∀ (s : State) (a : Nat) (bs : List Byte), (s.storeBytes a bs).scratch = s.scratch
  | _, _, [] => rfl
  | s, a, b :: bs => State.storeBytes_scratch (s.storeByte a b) (a + 1) bs

@[simp] theorem State.storeBytes_views : ∀ (s : State) (a : Nat) (bs : List Byte), (s.storeBytes a bs).views = s.views
  | _, _, [] => rfl
  | s, a, b :: bs => State.storeBytes_views (s.storeByte a b) (a + 1) bs

@[simp] theorem State.storeBytes_samplers : ∀ (s : State) (a : Nat) (bs : List Byte), (s.storeBytes a bs).samplers = s.samplers
  | _, _, [] => rfl
  | s, a, b :: bs => State.storeBytes_samplers (s.storeByte a b) (a + 1) bs

@[simp] theorem State.storeBytes_formats : ∀ (s : State) (a : Nat) (bs : List Byte), (s.storeBytes a bs).formats = s.formats
  | _, _, [] => rfl
  | s, a, b :: bs => State.storeBytes_formats (s.storeByte a b) (a + 1) bs

@[simp] theorem State.storeBytes_queue : ∀ (s : State) (a : Nat) (bs : List Byte), (s.storeBytes a bs).queue = s.queue
  | _, _, [] => rfl
  | s, a, b :: bs => State.storeBytes_queue (s.storeByte a b) (a + 1) bs

@[simp] theorem State.storeBytes_issuer : ∀ (s : State) (a : Nat) (bs : List Byte), (s.storeBytes a bs).issuer = s.issuer
  | _, _, [] => rfl
  | s, a, b :: bs => State.storeBytes_issuer (s.storeByte a b) (a + 1) bs

@[simp] theorem State.storeBytes_results : ∀ (s : State) (a : Nat) (bs : List Byte), (s.storeBytes a bs).results = s.results
  | _, _, [] => rfl
  | s, a, b :: bs => State.storeBytes_results (s.storeByte a b) (a + 1) bs

@[simp] theorem State.storeBytes_agenda : ∀ (s : State) (a : Nat) (bs : List Byte), (s.storeBytes a bs).agenda = s.agenda
  | _, _, [] => rfl
  | s, a, b :: bs => State.storeBytes_agenda (s.storeByte a b) (a + 1) bs

/-! ### writeSpan -/

@[simp] theorem State.writeSpan_mem (s : State) (v : Nat) (sel : SurfaceSel) (off : Nat) (b : Byte) : (s.writeSpan v sel off b).mem = s.mem := rfl
@[simp] theorem State.writeSpan_scratch (s : State) (v : Nat) (sel : SurfaceSel) (off : Nat) (b : Byte) : (s.writeSpan v sel off b).scratch = s.scratch := rfl
@[simp] theorem State.writeSpan_samplers (s : State) (v : Nat) (sel : SurfaceSel) (off : Nat) (b : Byte) : (s.writeSpan v sel off b).samplers = s.samplers := rfl
@[simp] theorem State.writeSpan_formats (s : State) (v : Nat) (sel : SurfaceSel) (off : Nat) (b : Byte) : (s.writeSpan v sel off b).formats = s.formats := rfl
@[simp] theorem State.writeSpan_queue (s : State) (v : Nat) (sel : SurfaceSel) (off : Nat) (b : Byte) : (s.writeSpan v sel off b).queue = s.queue := rfl
@[simp] theorem State.writeSpan_issuer (s : State) (v : Nat) (sel : SurfaceSel) (off : Nat) (b : Byte) : (s.writeSpan v sel off b).issuer = s.issuer := rfl
@[simp] theorem State.writeSpan_results (s : State) (v : Nat) (sel : SurfaceSel) (off : Nat) (b : Byte) : (s.writeSpan v sel off b).results = s.results := rfl
@[simp] theorem State.writeSpan_agenda (s : State) (v : Nat) (sel : SurfaceSel) (off : Nat) (b : Byte) : (s.writeSpan v sel off b).agenda = s.agenda := rfl

/-! ### createSampler -/

@[simp] theorem State.createSampler_mem (s : State) (smp v : Nat) : (s.createSampler smp v).mem = s.mem := by
  unfold State.createSampler; cases s.binding smp <;> rfl

@[simp] theorem State.createSampler_scratch (s : State) (smp v : Nat) : (s.createSampler smp v).scratch = s.scratch := by
  unfold State.createSampler; cases s.binding smp <;> rfl

@[simp] theorem State.createSampler_views (s : State) (smp v : Nat) : (s.createSampler smp v).views = s.views := by
  unfold State.createSampler; cases s.binding smp <;> rfl

@[simp] theorem State.createSampler_formats (s : State) (smp v : Nat) : (s.createSampler smp v).formats = s.formats := by
  unfold State.createSampler; cases s.binding smp <;> rfl

@[simp] theorem State.createSampler_queue (s : State) (smp v : Nat) : (s.createSampler smp v).queue = s.queue := by
  unfold State.createSampler; cases s.binding smp <;> rfl

@[simp] theorem State.createSampler_issuer (s : State) (smp v : Nat) : (s.createSampler smp v).issuer = s.issuer := by
  unfold State.createSampler; cases s.binding smp <;> rfl

@[simp] theorem State.createSampler_active (s : State) (smp v : Nat) : (s.createSampler smp v).active = s.active := by
  unfold State.createSampler; cases s.binding smp <;> rfl

@[simp] theorem State.createSampler_results (s : State) (smp v : Nat) : (s.createSampler smp v).results = s.results := by
  unfold State.createSampler; cases s.binding smp <;> rfl

@[simp] theorem State.createSampler_agenda (s : State) (smp v : Nat) : (s.createSampler smp v).agenda = s.agenda := by
  unfold State.createSampler; cases s.binding smp <;> rfl

@[simp] theorem State.createSampler_freeCount (s : State) (smp v : Nat) : (s.createSampler smp v).freeCount = s.freeCount := by
  unfold State.createSampler; cases s.binding smp <;> rfl

/-! ### answer -/

@[simp] theorem State.answer_mem (s : State) (r : Nat) (x : Answer) : (s.answer r x).mem = s.mem := rfl
@[simp] theorem State.answer_scratch (s : State) (r : Nat) (x : Answer) : (s.answer r x).scratch = s.scratch := rfl
@[simp] theorem State.answer_views (s : State) (r : Nat) (x : Answer) : (s.answer r x).views = s.views := rfl
@[simp] theorem State.answer_samplers (s : State) (r : Nat) (x : Answer) : (s.answer r x).samplers = s.samplers := rfl
@[simp] theorem State.answer_formats (s : State) (r : Nat) (x : Answer) : (s.answer r x).formats = s.formats := rfl
@[simp] theorem State.answer_queue (s : State) (r : Nat) (x : Answer) : (s.answer r x).queue = s.queue := rfl
@[simp] theorem State.answer_issuer (s : State) (r : Nat) (x : Answer) : (s.answer r x).issuer = s.issuer := rfl
@[simp] theorem State.answer_active (s : State) (r : Nat) (x : Answer) : (s.answer r x).active = s.active := rfl
@[simp] theorem State.answer_agenda (s : State) (r : Nat) (x : Answer) : (s.answer r x).agenda = s.agenda := rfl
@[simp] theorem State.answer_freeCount (s : State) (r : Nat) (x : Answer) : (s.answer r x).freeCount = s.freeCount := rfl

@[simp] theorem State.answer_results (s : State) (r : Nat) (x : Answer) : (s.answer r x).results = s.results ++ [⟨r, x⟩] := rfl

/-! ### begin -/

@[simp] theorem State.begin_mem (s : State) (a : Activation) : (s.begin a).mem = s.mem := rfl
@[simp] theorem State.begin_scratch (s : State) (a : Activation) : (s.begin a).scratch = s.scratch := rfl
@[simp] theorem State.begin_views (s : State) (a : Activation) : (s.begin a).views = s.views := rfl
@[simp] theorem State.begin_samplers (s : State) (a : Activation) : (s.begin a).samplers = s.samplers := rfl
@[simp] theorem State.begin_formats (s : State) (a : Activation) : (s.begin a).formats = s.formats := rfl
@[simp] theorem State.begin_queue (s : State) (a : Activation) : (s.begin a).queue = s.queue := rfl
@[simp] theorem State.begin_issuer (s : State) (a : Activation) : (s.begin a).issuer = s.issuer := rfl
@[simp] theorem State.begin_results (s : State) (a : Activation) : (s.begin a).results = s.results := rfl
@[simp] theorem State.begin_agenda (s : State) (a : Activation) : (s.begin a).agenda = s.agenda := rfl
@[simp] theorem State.begin_freeCount (s : State) (a : Activation) : (s.begin a).freeCount = s.freeCount := rfl

/-! ### deliver -/

@[simp] theorem State.deliverDecode_views (s : State) (a : Activation) (out : OutRef) :
    (s.deliverDecode a out).views = s.views := by
  unfold State.deliverDecode; split <;> simp

@[simp] theorem State.deliverDecode_samplers (s : State) (a : Activation) (out : OutRef) :
    (s.deliverDecode a out).samplers = s.samplers := by
  unfold State.deliverDecode; split <;> simp

@[simp] theorem State.deliverDecode_formats (s : State) (a : Activation) (out : OutRef) :
    (s.deliverDecode a out).formats = s.formats := by
  unfold State.deliverDecode; split <;> simp

@[simp] theorem State.deliverDecode_queue (s : State) (a : Activation) (out : OutRef) :
    (s.deliverDecode a out).queue = s.queue := by
  unfold State.deliverDecode; split <;> simp

@[simp] theorem State.deliverDecode_issuer (s : State) (a : Activation) (out : OutRef) :
    (s.deliverDecode a out).issuer = s.issuer := by
  unfold State.deliverDecode; split <;> simp

@[simp] theorem State.deliverDecode_agenda (s : State) (a : Activation) (out : OutRef) :
    (s.deliverDecode a out).agenda = s.agenda := by
  unfold State.deliverDecode; split <;> simp

@[simp] theorem State.deliverDecode_scratch (s : State) (a : Activation) (out : OutRef) :
    (s.deliverDecode a out).scratch = s.scratch := by
  unfold State.deliverDecode; split <;> simp

@[simp] theorem State.deliverSample_mem (s : State) (a : Activation) (scr : Option ScratchRef) (n : Nat) (e : Option Nat) :
    (s.deliverSample a scr n e).mem = s.mem := by
  unfold State.deliverSample; split
  · rfl
  · cases e <;> rfl

@[simp] theorem State.deliverSample_views (s : State) (a : Activation) (scr : Option ScratchRef) (n : Nat) (e : Option Nat) :
    (s.deliverSample a scr n e).views = s.views := by
  unfold State.deliverSample; split
  · rfl
  · cases e <;> rfl

@[simp] theorem State.deliverSample_samplers (s : State) (a : Activation) (scr : Option ScratchRef) (n : Nat) (e : Option Nat) :
    (s.deliverSample a scr n e).samplers = s.samplers := by
  unfold State.deliverSample; split
  · rfl
  · cases e <;> rfl

@[simp] theorem State.deliverSample_formats (s : State) (a : Activation) (scr : Option ScratchRef) (n : Nat) (e : Option Nat) :
    (s.deliverSample a scr n e).formats = s.formats := by
  unfold State.deliverSample; split
  · rfl
  · cases e <;> rfl

@[simp] theorem State.deliverSample_queue (s : State) (a : Activation) (scr : Option ScratchRef) (n : Nat) (e : Option Nat) :
    (s.deliverSample a scr n e).queue = s.queue := by
  unfold State.deliverSample; split
  · rfl
  · cases e <;> rfl

@[simp] theorem State.deliverSample_issuer (s : State) (a : Activation) (scr : Option ScratchRef) (n : Nat) (e : Option Nat) :
    (s.deliverSample a scr n e).issuer = s.issuer := by
  unfold State.deliverSample; split
  · rfl
  · cases e <;> rfl

@[simp] theorem State.deliverSample_agenda (s : State) (a : Activation) (scr : Option ScratchRef) (n : Nat) (e : Option Nat) :
    (s.deliverSample a scr n e).agenda = s.agenda := by
  unfold State.deliverSample; split
  · rfl
  · cases e <;> rfl

@[simp] theorem State.deliverSample_active (s : State) (a : Activation) (scr : Option ScratchRef) (n : Nat) (e : Option Nat) :
    (s.deliverSample a scr n e).active = s.active := by
  unfold State.deliverSample; split
  · rfl
  · cases e <;> rfl

@[simp] theorem State.deliverTo_views (s : State) (a : Activation) : (s.deliverTo a).views = s.views := by
  unfold State.deliverTo; split <;> simp

@[simp] theorem State.deliver_views (s : State) : s.deliver.views = s.views := by
  unfold State.deliver; split <;> simp

@[simp] theorem State.deliverTo_samplers (s : State) (a : Activation) : (s.deliverTo a).samplers = s.samplers := by
  unfold State.deliverTo; split <;> simp

@[simp] theorem State.deliver_samplers (s : State) : s.deliver.samplers = s.samplers := by
  unfold State.deliver; split <;> simp

@[simp] theorem State.deliverTo_formats (s : State) (a : Activation) : (s.deliverTo a).formats = s.formats := by
  unfold State.deliverTo; split <;> simp

@[simp] theorem State.deliver_formats (s : State) : s.deliver.formats = s.formats := by
  unfold State.deliver; split <;> simp

@[simp] theorem State.deliverTo_queue (s : State) (a : Activation) : (s.deliverTo a).queue = s.queue := by
  unfold State.deliverTo; split <;> simp

@[simp] theorem State.deliver_queue (s : State) : s.deliver.queue = s.queue := by
  unfold State.deliver; split <;> simp

@[simp] theorem State.deliverTo_issuer (s : State) (a : Activation) : (s.deliverTo a).issuer = s.issuer := by
  unfold State.deliverTo; split <;> simp

@[simp] theorem State.deliver_issuer (s : State) : s.deliver.issuer = s.issuer := by
  unfold State.deliver; split <;> simp

@[simp] theorem State.deliverTo_agenda (s : State) (a : Activation) : (s.deliverTo a).agenda = s.agenda := by
  unfold State.deliverTo; split <;> simp

@[simp] theorem State.deliver_agenda (s : State) : s.deliver.agenda = s.agenda := by
  unfold State.deliver; split <;> simp

/-! ### bringForward -/

@[simp] theorem State.bringForward_mem (s : State) (k : Nat) : (s.bringForward k).mem = s.mem := by
  unfold State.bringForward; split <;> rfl

@[simp] theorem State.bringForward_scratch (s : State) (k : Nat) : (s.bringForward k).scratch = s.scratch := by
  unfold State.bringForward; split <;> rfl

@[simp] theorem State.bringForward_views (s : State) (k : Nat) : (s.bringForward k).views = s.views := by
  unfold State.bringForward; split <;> rfl

@[simp] theorem State.bringForward_samplers (s : State) (k : Nat) : (s.bringForward k).samplers = s.samplers := by
  unfold State.bringForward; split <;> rfl

@[simp] theorem State.bringForward_formats (s : State) (k : Nat) : (s.bringForward k).formats = s.formats := by
  unfold State.bringForward; split <;> rfl

@[simp] theorem State.bringForward_queue (s : State) (k : Nat) : (s.bringForward k).queue = s.queue := by
  unfold State.bringForward; split <;> rfl

@[simp] theorem State.bringForward_issuer (s : State) (k : Nat) : (s.bringForward k).issuer = s.issuer := by
  unfold State.bringForward; split <;> rfl

@[simp] theorem State.bringForward_results (s : State) (k : Nat) : (s.bringForward k).results = s.results := by
  unfold State.bringForward; split <;> rfl

@[simp] theorem State.bringForward_agenda (s : State) (k : Nat) : (s.bringForward k).agenda = s.agenda := by
  unfold State.bringForward; split <;> rfl

@[simp] theorem State.bringForward_freeCount (s : State) (k : Nat) : (s.bringForward k).freeCount = s.freeCount := by
  unfold State.bringForward; split <;> rfl

@[simp] theorem State.start_mem (s : State) (i : Instr) : (s.start i).mem = s.mem := by
  cases i <;> simp only [State.start] <;> (try split) <;> simp

@[simp] theorem State.start_scratch (s : State) (i : Instr) : (s.start i).scratch = s.scratch := by
  cases i <;> simp only [State.start] <;> (try split) <;> simp

@[simp] theorem State.start_views (s : State) (i : Instr) : (s.start i).views = s.views := by
  cases i <;> simp only [State.start] <;> (try split) <;> simp

@[simp] theorem State.start_samplers (s : State) (i : Instr) : (s.start i).samplers = s.samplers := by
  cases i <;> simp only [State.start] <;> (try split) <;> simp

@[simp] theorem State.start_formats (s : State) (i : Instr) : (s.start i).formats = s.formats := by
  cases i <;> simp only [State.start] <;> (try split) <;> simp

@[simp] theorem State.start_queue (s : State) (i : Instr) : (s.start i).queue = s.queue := by
  cases i <;> simp only [State.start] <;> (try split) <;> simp

@[simp] theorem State.start_issuer (s : State) (i : Instr) : (s.start i).issuer = s.issuer := by
  cases i <;> simp only [State.start] <;> (try split) <;> simp

@[simp] theorem State.start_agenda (s : State) (i : Instr) : (s.start i).agenda = s.agenda := by
  cases i <;> simp only [State.start] <;> (try split) <;> simp

@[simp] theorem State.start_freeCount (s : State) (i : Instr) : (s.start i).freeCount = s.freeCount := by
  cases i <;> simp only [State.start] <;> (try split) <;> simp

end Sys2Proof.Machine
end

