-- ==== Sys2Proof/Laws/Ops.lean ====
section
/-! SUPPORT. What each shared operation can do, said once: storing bytes, the bytes read while they are written, the decode
datapath, and the return of an operation. -/

namespace Sys2Proof.Machine

/-! ### Bytes read while they are written (R415) -/

/-- A step of `disturb` changes no activation but in its captured bytes, and those only at the byte hit. -/
def Disturbed (hit : Activation → Option Nat) (b : Byte) (a a' : Activation) : Prop :=
  a' = a ∨ ∃ j, hit a = some j ∧ a' = { a with bytes := a.bytes.set j b }

theorem disturb_forall₂ (hit : Activation → Option Nat) (b : Byte) : ∀ (as : List Activation) (n : Nat),
    List.Forall₂ (Disturbed hit b) as (disturb hit b as n).1
  | [], _ => .nil
  | a :: as, n => by
    unfold disturb
    cases h : hit a with
    | none => exact .cons (.inl rfl) (disturb_forall₂ hit b as n)
    | some j =>
      refine .cons ?_ (disturb_forall₂ hit b as (n + 1))
      by_cases hc : Config.freeChoice n
      · exact .inr ⟨j, h, by simp [hc]⟩
      · exact .inl (by simp [hc])

theorem disturb_none (hit : Activation → Option Nat) (b : Byte) : ∀ (as : List Activation) (n : Nat),
    (∀ a ∈ as, hit a = none) → disturb hit b as n = (as, n)
  | [], _, _ => rfl
  | a :: as, n, h => by
    have ha := h a (by simp)
    have ht := disturb_none hit b as n fun x hx => h x (by simp [hx])
    unfold disturb
    rw [ha]
    simp [ht]

theorem State.storeByte_active_none (s : State) (addr : Nat) (b : Byte)
    (h : ∀ a ∈ s.active, a.memByte addr = none) :
    (s.storeByte addr b).active = s.active ∧ (s.storeByte addr b).freeCount = s.freeCount := by
  simp [State.storeByte, disturb_none _ _ _ _ h]

/-- Storing bytes that no operation in progress is reading changes memory alone. -/
theorem State.storeBytes_eq : ∀ (s : State) (a : Nat) (bs : List Byte),
    (∀ x ∈ s.active, ∀ c, a ≤ c → c < a + bs.length → x.memByte c = none) →
    s.storeBytes a bs = { s with mem := (s.storeBytes a bs).mem }
  | _, _, [], _ => rfl
  | s, a, b :: bs, h => by
    have h0 := s.storeByte_active_none a b fun x hx => h x hx a le_rfl (by simp)
    have e : s.storeByte a b = { s with mem := Memory.write s.mem a b } := by
      obtain ⟨h1, h2⟩ := h0
      have : s.storeByte a b =
          { s with mem := Memory.write s.mem a b, active := (s.storeByte a b).active,
                   freeCount := (s.storeByte a b).freeCount } := rfl
      rw [this, h1, h2]
    have hr := State.storeBytes_eq (s.storeByte a b) (a + 1) bs fun x hx c hc1 hc2 =>
      h x (by rw [h0.1] at hx; exact hx) c (by omega) (by simp; omega)
    rw [State.storeBytes, hr, e]

/-- What storing bytes does to an operation in progress (R415): its captured bytes alone can change, and each of those only
where it was read from a byte stored to, to the byte stored there. -/
def TornBy (a : Nat) (bs : List Byte) (x x' : Activation) : Prop :=
  x' = { x with bytes := x'.bytes } ∧ x'.bytes.length = x.bytes.length ∧
    ∀ j, x'.bytes[j]? = x.bytes[j]? ∨
      ∃ c, a ≤ c ∧ c < a + bs.length ∧ x.memByte c = some j ∧ x'.bytes[j]? = some (bs.getD (c - a) 0)

/-- A captured byte that memory's byte hits is one of the captured ones. -/
theorem Activation.memByte_lt (x : Activation) (addr j : Nat) (h : x.memByte addr = some j) : j < x.bytes.length := by
  unfold Activation.memByte at h
  split at h
  · split at h
    · cases h; omega
    · cases h
  · cases h

/-- Which byte is hit does not depend on what the captured bytes are. -/
theorem Activation.memByte_congr (x : Activation) (bytes : List Byte) (addr : Nat) (h : bytes.length = x.bytes.length) :
    Activation.memByte addr { x with bytes := bytes } = x.memByte addr := by
  simp only [Activation.memByte, h]

theorem TornBy.cons (a : Nat) (b : Byte) (bs : List Byte) (x y z : Activation)
    (h : Disturbed (Activation.memByte a) b x y) (h' : TornBy (a + 1) bs y z) : TornBy a (b :: bs) x z := by
  obtain ⟨e, l, hz⟩ := h'
  have later : ∀ j, (∃ c, a + 1 ≤ c ∧ c < a + 1 + bs.length ∧ x.memByte c = some j ∧
      z.bytes[j]? = some (bs.getD (c - (a + 1)) 0)) →
      ∃ c, a ≤ c ∧ c < a + (b :: bs).length ∧ x.memByte c = some j ∧ z.bytes[j]? = some ((b :: bs).getD (c - a) 0) := by
    rintro j ⟨c, h1, h2, h3, h4⟩
    refine ⟨c, by omega, by simp; omega, h3, ?_⟩
    rw [h4, show c - a = (c - (a + 1)) + 1 by omega, List.getD_cons_succ]
  rcases h with rfl | ⟨i, hi, rfl⟩
  · exact ⟨e, l, fun j => (hz j).imp id (later j)⟩
  · have hl : (x.bytes.set i b).length = x.bytes.length := List.length_set
    refine ⟨by simpa using e, by simpa using l, fun j => ?_⟩
    rcases hz j with hj | ⟨c, h1, h2, h3, h4⟩
    · by_cases hij : i = j
      · subst hij
        refine .inr ⟨a, le_rfl, by simp, hi, ?_⟩
        rw [hj]
        simp [x.memByte_lt a i hi]
      · exact .inl (by rw [hj]; exact List.getElem?_set_ne hij)
    · exact .inr (later j ⟨c, h1, h2, by rwa [x.memByte_congr _ c hl] at h3, h4⟩)

/-- Storing bytes leaves the operations in progress in their places, each torn by the bytes at most. -/
theorem State.storeBytes_active : ∀ (s : State) (a : Nat) (bs : List Byte),
    List.Forall₂ (TornBy a bs) s.active (s.storeBytes a bs).active
  | s, a, [] => List.forall₂_same.mpr fun _ _ => ⟨rfl, rfl, fun _ => .inl rfl⟩
  | s, a, b :: bs => by
    have h := disturb_forall₂ (Activation.memByte a) b s.active s.freeCount
    have h' := State.storeBytes_active (s.storeByte a b) (a + 1) bs
    refine List.forall₂_iff_get.mpr ⟨h.length_eq.trans h'.length_eq, fun i hi hi' => ?_⟩
    exact TornBy.cons a b bs _ _ _ (h.get hi (h.length_eq ▸ hi)) (h'.get (h.length_eq ▸ hi) hi')

theorem State.storeBytes_wf : ∀ (s : State) (a : Nat) (bs : List Byte), Memory.wf s.mem = true →
    Memory.wf (s.storeBytes a bs).mem = true
  | _, _, [], h => h
  | s, a, b :: bs, h => State.storeBytes_wf (s.storeByte a b) (a + 1) bs (Memory.wf_write s.mem a b h)

/-- What a byte reads as after consecutive bytes were stored. -/
theorem State.read_storeBytes : ∀ (s : State) (a : Nat) (bs : List Byte) (c : Nat), Memory.wf s.mem = true →
    Memory.read (s.storeBytes a bs).mem c =
      if a ≤ c ∧ c < a + bs.length then bs.getD (c - a) 0 else Memory.read s.mem c
  | s, a, [], c, _ => by simp only [State.storeBytes, List.length_nil]; rw [if_neg (by omega)]
  | s, a, b :: bs, c, h => by
    have hw := Memory.wf_write s.mem a b h
    rw [State.storeBytes, State.read_storeBytes (s.storeByte a b) (a + 1) bs c hw]
    by_cases hc : c = a
    · subst hc
      rw [if_neg (by omega), if_pos (by simp), Nat.sub_self]
      simpa using Memory.read_write_same s.mem c b h
    · by_cases h1 : a + 1 ≤ c ∧ c < a + 1 + bs.length
      · rw [if_pos h1, if_pos (by simp; omega)]
        have : c - a = (c - (a + 1)) + 1 := by omega
        rw [this, List.getD_cons_succ]
      · rw [if_neg h1, if_neg (by simp; omega)]
        simpa using Memory.read_write_other s.mem a c b hc

/-- A byte outside the stored ones reads as before, whatever the memory's form. -/
theorem State.read_storeBytes_other : ∀ (s : State) (a : Nat) (bs : List Byte) (c : Nat),
    (c < a ∨ a + bs.length ≤ c) → Memory.read (s.storeBytes a bs).mem c = Memory.read s.mem c
  | _, _, [], _, _ => rfl
  | s, a, b :: bs, c, h => by
    rw [State.storeBytes, State.read_storeBytes_other (s.storeByte a b) (a + 1) bs c (by simp at h; omega)]
    simpa using Memory.read_write_other s.mem a c b (by simp at h; omega)

/-! ### The decode datapath -/

@[simp] theorem State.decodeInto_cons (s : State) (a : Activation) (rest : List Activation) (g : WorkRegs → WorkRegs)
    (h : s.active = a :: rest) :
    s.decodeInto g = .next { s with active := { a with regs := g a.regs, phase := .returning } :: rest } := by
  unfold State.decodeInto; rw [h]

/-- The datapath answers a next state only with an operation in progress, and then sets its registers alone. -/
theorem State.decodeInto_next (s t : State) (g : WorkRegs → WorkRegs) (h : s.decodeInto g = .next t) :
    ∃ a rest, s.active = a :: rest ∧
      t = { s with active := { a with regs := g a.regs, phase := .returning } :: rest } := by
  unfold State.decodeInto at h
  split at h
  · cases h
  · rename_i a rest ha
    cases h
    exact ⟨a, rest, ha, rfl⟩

/-- The four requests. -/
def isRequest (i : Instr) : Bool :=
  match i with
  | .decodeBc6h _ _ _ _ => true
  | .decodeBc7 _ _ => true
  | .load _ _ _ _ => true
  | .sample _ _ _ _ => true
  | _ => false

/-- The datapath runs a block instruction as `exec` does. -/
theorem runBlockInstr_eq_exec (i : Instr) (s : State) (h : isRequest i = false) : runBlockInstr i s = exec i s := by
  cases i <;> first | rfl | cases h

/-- A BC6H block decodes to a block instruction. -/
theorem isRequest_decodeBc6hBlock (signed : Bool) (layout : Layout) (blk : Block) (i : Instr)
    (h : decodeBc6hBlock signed layout blk = .ok i) : isRequest i = false := by
  unfold decodeBc6hBlock at h
  split at h
  split at h
  · unfold bc6hInstr at h
    split at h <;> cases h <;> rfl
  · unfold bc6hReservedInstr at h
    split at h <;> cases h <;> rfl

/-- A BC7 block decodes to a block instruction. -/
theorem isRequest_decodeBc7Block (blk : Block) : isRequest (decodeBc7Block blk) = false := by
  unfold decodeBc7Block
  dsimp only
  split
  · rfl
  · split <;> rfl

/-- Every block instruction is the datapath with some setting of the registers. -/
theorem exec_block (i : Instr) (h : isRequest i = false) : ∃ g, ∀ s, exec i s = s.decodeInto g := by
  cases i <;> first | exact ⟨_, fun _ => rfl⟩ | cases h

/-- A request decodes to a request. -/
theorem isRequest_decodeRequest (cmd : Byte) (o : Operands) (i : Instr) (h : decodeRequest cmd o = .ok i) :
    isRequest i = true := by
  unfold decodeRequest at h
  dsimp only at h
  split at h
  · cases h
  split at h
  · cases h
  split at h
  · split at h
    · cases h
    split at h
    · cases h
    cases h; rfl
  · split at h
    · cases h
    split at h
    · cases h
    cases h; rfl
  · unfold scratchOperand at h
    split at h
    · cases h; rfl
    · split at h
      · cases h
      · cases h; rfl
  · unfold scratchOperand at h
    split at h
    · cases h; rfl
    · split at h
      · cases h
      · cases h; rfl

/-! ### The BC6H decoder's mode -/

/-- The codes the prefix of R111 can give are the 18 of R112: each has a record, or is one of the four reserved. -/
theorem bc6hModeRead_code (blk : Block) :
    (bc6hModeRead blk).1 ∈ [0x00, 0x01, 0x02, 0x06, 0x0A, 0x0E, 0x12, 0x16, 0x1A, 0x1E, 0x03, 0x07, 0x0B, 0x0F,
      0x13, 0x17, 0x1B, 0x1F] := by
  have key : ∀ lo : Nat, lo < 4 → ∀ hi : Nat, hi < 8 →
      (if lo = 0 ∨ lo = 1 then (lo, 2) else ((hi <<< 2) ||| lo, 5) : Nat × Nat).1 ∈
        [0x00, 0x01, 0x02, 0x06, 0x0A, 0x0E, 0x12, 0x16, 0x1A, 0x1E, 0x03, 0x07, 0x0B, 0x0F, 0x13, 0x17, 0x1B, 0x1F] := by
    decide
  have h := key ((blk.toNat >>> 0) % 2 ^ 2) (Nat.mod_lt _ (by decide)) ((blk.toNat >>> 2) % 2 ^ 3)
    (Nat.mod_lt _ (by decide))
  simpa [bc6hModeRead, Bits.getBits] using h

/-- Every BC6H block decodes (R129 (4)). -/
theorem decodeBc6hBlock_ok (signed : Bool) (layout : Layout) (blk : Block) :
    ∃ i, decodeBc6hBlock signed layout blk = .ok i := by
  have h := bc6hModeRead_code blk
  unfold decodeBc6hBlock
  cases hm : bc6hModeRead blk with
  | mk code cur =>
    rw [hm] at h
    simp only [List.mem_cons, List.mem_nil_iff, or_false] at h
    rcases h with h | h | h | h | h | h | h | h | h | h | h | h | h | h | h | h | h | h <;> subst h <;> exact ⟨_, rfl⟩

/-! ### The start of an operation -/

/-- An operation that shares its buffer with none in progress begins unmarked, and marks none (R414). -/
theorem State.begin_unshared (s : State) (a : Activation) (h : ∀ b ∈ s.active, a.shares b = false) :
    s.begin a = { s with active := { a with raced := false } :: s.active } := by
  have h1 : s.active.any a.shares = false := by simpa using h
  have h2 : (s.active.map fun b => if a.shares b then { b with raced := true } else b) = s.active := by
    conv_rhs => rw [← List.map_id s.active]
    exact List.map_congr_left fun b hb => by simp [h b hb]
  unfold State.begin
  rw [h1, h2]

/-- The activation of a failed check has only to return, and returns the empty sample unless it is raced (R350). -/
theorem State.operate_emptyActivation (s : State) (scr : Option ScratchRef) (smp : Nat)
    (h : ∀ b ∈ s.active, (s.emptyActivation scr smp).shares b = false) :
    s.operate (s.emptyActivation scr smp) = .next (s.answer s.issuer (.sampled .none)) := by
  unfold State.operate
  rw [State.begin_unshared s _ h]
  rfl

/-- LOAD's front end is its block's activation, about to decode, or that of a failed check. -/
theorem loadFront_cases (s : State) (scr : Option ScratchRef) (smp : Nat) (texel : Vec3) (sel : Selector) :
    (loadBlock s scr smp texel sel = none ∧ loadFront s scr smp texel sel = s.emptyActivation scr smp) ∨
      ∃ a, loadBlock s scr smp texel sel = some a ∧ loadFront s scr smp texel sel = a := by
  unfold loadFront
  cases loadBlock s scr smp texel sel with
  | none => exact .inl ⟨rfl, rfl⟩
  | some a => exact .inr ⟨a, rfl, rfl⟩

/-- What a block's activation of LOAD is: every check passed, the block read, and the decoder to run (R348). -/
theorem loadBlock_some (s : State) (scr : Option ScratchRef) (smp : Nat) (texel : Vec3) (sel : Selector)
    (a : Activation) (h : loadBlock s scr smp texel sel = some a) :
    (s.samplerView smp).isEmpty = false ∧
      (let v := s.samplerView smp
       let kind := s.kindOf v.format
       let g := geometry kind v.format
       let e := v.extent sel.mip
       let surf : SurfaceSel := ⟨sel.slice, sel.face, sel.mip, texel.z⟩
       let off := blockOffset g e.w.toNat texel.x.toNat texel.y.toNat
       g.count ≤ scratchCap scr ∧ texelInRange texel e = true ∧
         ∃ bytes, memRead (v.surface surf) off g.bytes = some bytes ∧
           a = s.activation (fmtOfKind kind v.format)
             (.sampler scr g.count (some (blockEntry g texel.x.toNat texel.y.toNat)))
             (.span ((s.binding smp).getD 0) surf off) bytes) := by
  unfold loadBlock at h
  dsimp only at h ⊢
  split at h
  · cases h
  rename_i h1
  split at h
  · cases h
  rename_i h2
  split at h
  · rename_i h3
    split at h
    · cases h
    · rename_i bytes h4
      exact ⟨by simpa using h1, by omega, h3, bytes, h4, by simpa using h.symm⟩
  · cases h

/-! ### The return of an operation -/

theorem State.deliver_nil (s : State) (h : s.active = []) : s.deliver = s := by
  unfold State.deliver; rw [h]

theorem State.deliver_cons (s : State) (a : Activation) (rest : List Activation) (h : s.active = a :: rest) :
    s.deliver = State.deliverTo { s with active := rest } a := by
  unfold State.deliver; rw [h]

/-- What `step` does with an empty agenda. -/
theorem step_nil (s : State) (h : s.agenda = []) : step s = stepUnit s := by
  unfold step; rw [h]

theorem step_cons (s : State) (e : Event) (rest : List Event) (h : s.agenda = e :: rest) :
    step s = stepEvent e { s with agenda := rest } := by
  unfold step; rw [h]

end Sys2Proof.Machine
end

