-- ==== Sys2Proof/Laws/PerInstr.lean ====
section
/-! SUPPORT. The statements made of every instruction, one lemma for each constructor. Family `Prefix`: the first byte of an
instruction's encoding is the one its row of the opcode table matches, under the row's mask. -/

namespace Sys2Proof.Laws

/-- Bit k of the first byte of an encoded instruction: a request's command byte, or a block's byte 0. -/
def firstBit (e : Encoded) (k : Nat) : Bool :=
  match e with
  | .request cmd _ => cmd.getLsbD k
  | .bc6h _ _ blk => blk.getLsbD k
  | .bc7 blk => blk.getLsbD k

/-- The mask and the match of an instruction's row of spec/opcode_table.json. -/
def row (i : Instr) : Nat × Nat :=
  match i with
  | .bc6hM1 _ _ _ => (0x03, 0x00)
  | .bc6hM2 _ _ _ => (0x03, 0x01)
  | .bc6hM3 _ _ _ => (0x1F, 0x02)
  | .bc6hM4 _ _ _ => (0x1F, 0x06)
  | .bc6hM5 _ _ _ => (0x1F, 0x0A)
  | .bc6hM6 _ _ _ => (0x1F, 0x0E)
  | .bc6hM7 _ _ _ => (0x1F, 0x12)
  | .bc6hM8 _ _ _ => (0x1F, 0x16)
  | .bc6hM9 _ _ _ => (0x1F, 0x1A)
  | .bc6hM10 _ _ _ => (0x1F, 0x1E)
  | .bc6hM11 _ _ _ => (0x1F, 0x03)
  | .bc6hM12 _ _ _ => (0x1F, 0x07)
  | .bc6hM13 _ _ _ => (0x1F, 0x0B)
  | .bc6hM14 _ _ _ => (0x1F, 0x0F)
  | .bc6hReserved13 _ _ _ => (0x1F, 0x13)
  | .bc6hReserved17 _ _ _ => (0x1F, 0x17)
  | .bc6hReserved1B _ _ _ => (0x1F, 0x1B)
  | .bc6hReserved1F _ _ _ => (0x1F, 0x1F)
  | .bc7Mode0 _ => (0x01, 0x01)
  | .bc7Mode1 _ => (0x03, 0x02)
  | .bc7Mode2 _ => (0x07, 0x04)
  | .bc7Mode3 _ => (0x0F, 0x08)
  | .bc7Mode4 _ => (0x1F, 0x10)
  | .bc7Mode5 _ => (0x3F, 0x20)
  | .bc7Mode6 _ => (0x7F, 0x40)
  | .bc7Mode7 _ => (0xFF, 0x80)
  | .bc7Reserved _ => (0xFF, 0x00)
  | .decodeBc6h _ _ _ _ => (0xE3, 0x00)
  | .decodeBc7 _ _ => (0xFF, 0x01)
  | .load _ _ _ _ => (0xDF, 0x02)
  | .sample _ _ _ _ => (0xDF, 0x03)

/-- Every masked bit of the first byte is the row's. -/
def Prefix.Statement (i : Instr) : Prop :=
  ∀ k < 8, (row i).1.testBit k = true → firstBit (encode i) k = (row i).2.testBit k

theorem bitOfBlock (bs : List Bool) (k : Nat) (hk : k < 128) : (Bits.toBlock bs).getLsbD k = bs.getD k false := by
  rw [Bits.toBlock, BitVec.getLsbD_ofNat, Bits.testBit_toNat]; simp [hk]

/-- A mode bit of a BC6H header stands where the map puts it. -/
theorem modeBit (code : Nat) (f : Bc6hFields) (k : Nat) (hk : k < 128) (hi : (Rom.bc6hInfo code).isSome = true)
    (hd : (bc6hDesc code)[k]? = some (.m, k)) : (encodeBc6h code f).getLsbD k = code.testBit k := by
  unfold encodeBc6h
  cases h : Rom.bc6hInfo code with
  | none => rw [h] at hi; cases hi
  | some i =>
    have hl : k < (bc6hDesc code).length := (List.getElem?_eq_some_iff.mp hd).1
    rw [bitOfBlock _ _ hk, List.getD_eq_getElem?_getD, List.getElem?_append_left (by simpa using hl), List.getElem?_map, hd]
    rfl

/-- The unary prefix of a BC7 block. -/
theorem unaryBit (mode : Nat) (f : Bc7Fields) (k : Nat) (hm : mode < 8) (hk : k ≤ mode) :
    (encodeBc7 mode f).getLsbD k = decide (k = mode) := by
  have hp : ∀ m < 8, ∀ j < 8, j ≤ m → (Bits.ofField (m + 1) (1 <<< m))[j]? = some (decide (j = m)) := by decide
  have hi : ∀ m < 8, (Rom.bc7Info m).isSome = true := by decide
  unfold encodeBc7
  cases h : Rom.bc7Info mode with
  | none => have := hi mode hm; rw [h] at this; cases this
  | some i =>
    have hl : k < (Bits.ofField (mode + 1) (1 <<< mode)).length := by simp; omega
    dsimp only
    rw [bitOfBlock _ _ (by omega), List.getD_eq_getElem?_getD]
    simp only [List.append_assoc]
    rw [List.getElem?_append_left hl, hp mode hm k (by omega) hk]
    rfl

namespace Prefix

theorem bc6hM1 (s : Bool) (l : Layout) (f : Bc6hFields) : Statement (.bc6hM1 s l f) := fun k hk hm =>
  modeBit 0x00 f k (by omega) (by decide)
    ((by decide : ∀ k < 8, Nat.testBit 0x03 k = true → (bc6hDesc 0x00)[k]? = some (.m, k)) k hk hm)

theorem bc6hM2 (s : Bool) (l : Layout) (f : Bc6hFields) : Statement (.bc6hM2 s l f) := fun k hk hm =>
  modeBit 0x01 f k (by omega) (by decide)
    ((by decide : ∀ k < 8, Nat.testBit 0x03 k = true → (bc6hDesc 0x01)[k]? = some (.m, k)) k hk hm)

theorem bc6hM3 (s : Bool) (l : Layout) (f : Bc6hFields) : Statement (.bc6hM3 s l f) := fun k hk hm =>
  modeBit 0x02 f k (by omega) (by decide)
    ((by decide : ∀ k < 8, Nat.testBit 0x1F k = true → (bc6hDesc 0x02)[k]? = some (.m, k)) k hk hm)

theorem bc6hM4 (s : Bool) (l : Layout) (f : Bc6hFields) : Statement (.bc6hM4 s l f) := fun k hk hm =>
  modeBit 0x06 f k (by omega) (by decide)
    ((by decide : ∀ k < 8, Nat.testBit 0x1F k = true → (bc6hDesc 0x06)[k]? = some (.m, k)) k hk hm)

theorem bc6hM5 (s : Bool) (l : Layout) (f : Bc6hFields) : Statement (.bc6hM5 s l f) := fun k hk hm =>
  modeBit 0x0A f k (by omega) (by decide)
    ((by decide : ∀ k < 8, Nat.testBit 0x1F k = true → (bc6hDesc 0x0A)[k]? = some (.m, k)) k hk hm)

theorem bc6hM6 (s : Bool) (l : Layout) (f : Bc6hFields) : Statement (.bc6hM6 s l f) := fun k hk hm =>
  modeBit 0x0E f k (by omega) (by decide)
    ((by decide : ∀ k < 8, Nat.testBit 0x1F k = true → (bc6hDesc 0x0E)[k]? = some (.m, k)) k hk hm)

theorem bc6hM7 (s : Bool) (l : Layout) (f : Bc6hFields) : Statement (.bc6hM7 s l f) := fun k hk hm =>
  modeBit 0x12 f k (by omega) (by decide)
    ((by decide : ∀ k < 8, Nat.testBit 0x1F k = true → (bc6hDesc 0x12)[k]? = some (.m, k)) k hk hm)

theorem bc6hM8 (s : Bool) (l : Layout) (f : Bc6hFields) : Statement (.bc6hM8 s l f) := fun k hk hm =>
  modeBit 0x16 f k (by omega) (by decide)
    ((by decide : ∀ k < 8, Nat.testBit 0x1F k = true → (bc6hDesc 0x16)[k]? = some (.m, k)) k hk hm)

theorem bc6hM9 (s : Bool) (l : Layout) (f : Bc6hFields) : Statement (.bc6hM9 s l f) := fun k hk hm =>
  modeBit 0x1A f k (by omega) (by decide)
    ((by decide : ∀ k < 8, Nat.testBit 0x1F k = true → (bc6hDesc 0x1A)[k]? = some (.m, k)) k hk hm)

theorem bc6hM10 (s : Bool) (l : Layout) (f : Bc6hFields) : Statement (.bc6hM10 s l f) := fun k hk hm =>
  modeBit 0x1E f k (by omega) (by decide)
    ((by decide : ∀ k < 8, Nat.testBit 0x1F k = true → (bc6hDesc 0x1E)[k]? = some (.m, k)) k hk hm)

theorem bc6hM11 (s : Bool) (l : Layout) (f : Bc6hFields) : Statement (.bc6hM11 s l f) := fun k hk hm =>
  modeBit 0x03 f k (by omega) (by decide)
    ((by decide : ∀ k < 8, Nat.testBit 0x1F k = true → (bc6hDesc 0x03)[k]? = some (.m, k)) k hk hm)

theorem bc6hM12 (s : Bool) (l : Layout) (f : Bc6hFields) : Statement (.bc6hM12 s l f) := fun k hk hm =>
  modeBit 0x07 f k (by omega) (by decide)
    ((by decide : ∀ k < 8, Nat.testBit 0x1F k = true → (bc6hDesc 0x07)[k]? = some (.m, k)) k hk hm)

theorem bc6hM13 (s : Bool) (l : Layout) (f : Bc6hFields) : Statement (.bc6hM13 s l f) := fun k hk hm =>
  modeBit 0x0B f k (by omega) (by decide)
    ((by decide : ∀ k < 8, Nat.testBit 0x1F k = true → (bc6hDesc 0x0B)[k]? = some (.m, k)) k hk hm)

theorem bc6hM14 (s : Bool) (l : Layout) (f : Bc6hFields) : Statement (.bc6hM14 s l f) := fun k hk hm =>
  modeBit 0x0F f k (by omega) (by decide)
    ((by decide : ∀ k < 8, Nat.testBit 0x1F k = true → (bc6hDesc 0x0F)[k]? = some (.m, k)) k hk hm)

theorem bc6hReserved13 (s : Bool) (l : Layout) (r : BitVec 123) : Statement (.bc6hReserved13 s l r) := fun k hk hm => by
  have h5 : ∀ k < 8, Nat.testBit 0x1F k = true → k < 5 := by decide
  have hb : ∀ k < 5, (0x13#5).getLsbD k = Nat.testBit 0x13 k := by decide
  have h := h5 k hk hm
  show (r ++ 0x13#5 : BitVec 128).getLsbD k = _
  rw [BitVec.getLsbD_append, if_pos h]
  exact hb k h

theorem bc6hReserved17 (s : Bool) (l : Layout) (r : BitVec 123) : Statement (.bc6hReserved17 s l r) := fun k hk hm => by
  have h5 : ∀ k < 8, Nat.testBit 0x1F k = true → k < 5 := by decide
  have hb : ∀ k < 5, (0x17#5).getLsbD k = Nat.testBit 0x17 k := by decide
  have h := h5 k hk hm
  show (r ++ 0x17#5 : BitVec 128).getLsbD k = _
  rw [BitVec.getLsbD_append, if_pos h]
  exact hb k h

theorem bc6hReserved1B (s : Bool) (l : Layout) (r : BitVec 123) : Statement (.bc6hReserved1B s l r) := fun k hk hm => by
  have h5 : ∀ k < 8, Nat.testBit 0x1F k = true → k < 5 := by decide
  have hb : ∀ k < 5, (0x1B#5).getLsbD k = Nat.testBit 0x1B k := by decide
  have h := h5 k hk hm
  show (r ++ 0x1B#5 : BitVec 128).getLsbD k = _
  rw [BitVec.getLsbD_append, if_pos h]
  exact hb k h

theorem bc6hReserved1F (s : Bool) (l : Layout) (r : BitVec 123) : Statement (.bc6hReserved1F s l r) := fun k hk hm => by
  have h5 : ∀ k < 8, Nat.testBit 0x1F k = true → k < 5 := by decide
  have hb : ∀ k < 5, (0x1F#5).getLsbD k = Nat.testBit 0x1F k := by decide
  have h := h5 k hk hm
  show (r ++ 0x1F#5 : BitVec 128).getLsbD k = _
  rw [BitVec.getLsbD_append, if_pos h]
  exact hb k h

theorem bc7Mode0 (f : Bc7Fields) : Statement (.bc7Mode0 f) := fun k hk hm =>
  have h : ∀ k < 8, Nat.testBit 0x01 k = true → k ≤ 0 ∧ Nat.testBit 0x01 k = decide (k = 0) := by decide
  (unaryBit 0 f k (by decide) (h k hk hm).1).trans (h k hk hm).2.symm

theorem bc7Mode1 (f : Bc7Fields) : Statement (.bc7Mode1 f) := fun k hk hm =>
  have h : ∀ k < 8, Nat.testBit 0x03 k = true → k ≤ 1 ∧ Nat.testBit 0x02 k = decide (k = 1) := by decide
  (unaryBit 1 f k (by decide) (h k hk hm).1).trans (h k hk hm).2.symm

theorem bc7Mode2 (f : Bc7Fields) : Statement (.bc7Mode2 f) := fun k hk hm =>
  have h : ∀ k < 8, Nat.testBit 0x07 k = true → k ≤ 2 ∧ Nat.testBit 0x04 k = decide (k = 2) := by decide
  (unaryBit 2 f k (by decide) (h k hk hm).1).trans (h k hk hm).2.symm

theorem bc7Mode3 (f : Bc7Fields) : Statement (.bc7Mode3 f) := fun k hk hm =>
  have h : ∀ k < 8, Nat.testBit 0x0F k = true → k ≤ 3 ∧ Nat.testBit 0x08 k = decide (k = 3) := by decide
  (unaryBit 3 f k (by decide) (h k hk hm).1).trans (h k hk hm).2.symm

theorem bc7Mode4 (f : Bc7Fields) : Statement (.bc7Mode4 f) := fun k hk hm =>
  have h : ∀ k < 8, Nat.testBit 0x1F k = true → k ≤ 4 ∧ Nat.testBit 0x10 k = decide (k = 4) := by decide
  (unaryBit 4 f k (by decide) (h k hk hm).1).trans (h k hk hm).2.symm

theorem bc7Mode5 (f : Bc7Fields) : Statement (.bc7Mode5 f) := fun k hk hm =>
  have h : ∀ k < 8, Nat.testBit 0x3F k = true → k ≤ 5 ∧ Nat.testBit 0x20 k = decide (k = 5) := by decide
  (unaryBit 5 f k (by decide) (h k hk hm).1).trans (h k hk hm).2.symm

theorem bc7Mode6 (f : Bc7Fields) : Statement (.bc7Mode6 f) := fun k hk hm =>
  have h : ∀ k < 8, Nat.testBit 0x7F k = true → k ≤ 6 ∧ Nat.testBit 0x40 k = decide (k = 6) := by decide
  (unaryBit 6 f k (by decide) (h k hk hm).1).trans (h k hk hm).2.symm

theorem bc7Mode7 (f : Bc7Fields) : Statement (.bc7Mode7 f) := fun k hk hm =>
  have h : ∀ k < 8, Nat.testBit 0xFF k = true → k ≤ 7 ∧ Nat.testBit 0x80 k = decide (k = 7) := by decide
  (unaryBit 7 f k (by decide) (h k hk hm).1).trans (h k hk hm).2.symm

theorem bc7Reserved (r : BitVec 120) : Statement (.bc7Reserved r) := fun k hk _ => by
  have hb : ∀ k < 8, (0#8).getLsbD k = Nat.testBit 0x00 k := by decide
  show (r ++ 0#8 : BitVec 128).getLsbD k = _
  rw [BitVec.getLsbD_append, if_pos hk]
  exact hb k hk

theorem decodeBc6h (s : Bool) (l : Layout) (blk : Nat) (out : OutRef) : Statement (.decodeBc6h s l blk out) := by
  have h : ∀ k < 8, Nat.testBit 0xE3 k = true → ∀ s, (cmdByte false (codeOfLayout l) s 0b00#2).getLsbD k = Nat.testBit 0x00 k := by
    cases l <;> decide
  exact fun k hk hm => h k hk hm s

theorem decodeBc7 (blk : Nat) (out : OutRef) : Statement (.decodeBc7 blk out) :=
  (by decide : ∀ k < 8, Nat.testBit 0xFF k = true → (cmdByte false 0 false 0b01#2).getLsbD k = Nat.testBit 0x01 k)

theorem load (scr : Option ScratchRef) (smp : Nat) (t : Vec3) (sel : Selector) : Statement (.load scr smp t sel) := by
  have h : ∀ k < 8, Nat.testBit 0xDF k = true → ∀ b, (cmdByte b 0 false 0b10#2).getLsbD k = Nat.testBit 0x02 k := by
    decide
  exact fun k hk hm => h k hk hm scr.isNone

theorem sample (scr : Option ScratchRef) (smp : Nat) (uv : Vec3) (sel : Selector) : Statement (.sample scr smp uv sel) := by
  have h : ∀ k < 8, Nat.testBit 0xDF k = true → ∀ b, (cmdByte b 0 false 0b11#2).getLsbD k = Nat.testBit 0x03 k := by
    decide
  exact fun k hk hm => h k hk hm scr.isNone

end Prefix

end Sys2Proof.Laws
end

