-- ==== Sys2Proof/Tests/Slice0.lean ====
section
/-! SUPPORT. The model's own tests. Every expected result is the spec's: the vectors of 95_test_vectors.md ("T6.1", "S2"),
the worked examples of its rules, or a word put together by hand from the layouts of 30_encoding.md. -/

set_option Elab.async false

namespace Sys2Proof.Tests

open Sys2Proof.Machine

/-! ### Helpers -/

/-- The 16 bytes of a block in the notation of R158: 32 hexadecimal digits, byte 0 first. -/
def hexBytes (n : Nat) : List Byte :=
  (bytesOfNat 16 n).reverse

/-- The block of 32 hexadecimal digits (R158). -/
def hexBlock (n : Nat) : Block :=
  blockOfBytes (hexBytes n)

/-- An activation of a format, its block captured, at the start of its decode. -/
def started (fmt : Fmt) (bytes : List Byte) : Activation :=
  { requester := 0, fmt := fmt, client := .decode ⟨0x1000, 16⟩, src := .mem 0, bytes := bytes, regs := WorkRegs.start,
    phase := .decoding, raced := false }

/-- The reset state with one activation in progress. -/
def running (fmt : Fmt) : State :=
  { State.reset with active := [started fmt (hexBytes 0)] }

/-- The next state of an outcome. -/
def nextOf (o : Host.Outcome State Fault Refusal) : Option State :=
  match o with
  | .next s => some s
  | _ => none

/-- The working registers of the running activation after an outcome. -/
def regsOf (o : Host.Outcome State Fault Refusal) : Option WorkRegs :=
  (nextOf o).bind fun s => s.active.head?.map (·.regs)

/-- The output entries of the given numbers. -/
def texels (o : Host.Outcome State Fault Refusal) (ks : List Nat) : List Texel :=
  match regsOf o with
  | some r => ks.filterMap fun k => r.out[k]?
  | none => []

/-- The decoder's status. -/
def statusOf (o : Host.Outcome State Fault Refusal) : Option Status :=
  (regsOf o).map (·.status)

/-- The first n endpoint registers. -/
def endsOf (o : Host.Outcome State Fault Refusal) (n : Nat) : List Quad :=
  match regsOf o with
  | some r => r.ends.take n
  | none => []

/-- What was returned, and the given scratch entries, after an outcome. -/
def resultOf (o : Host.Outcome State Fault Refusal) (entries : List Nat) : Option (List Answer × List Sample) :=
  (nextOf o).map fun s => (s.results.map (·.answer), entries.map (Scratch.read s.scratch))

/-- What was returned, and n bytes of requester memory from an address, after an outcome. -/
def memoryOf (o : Host.Outcome State Fault Refusal) (a n : Nat) : Option (List Answer × List Byte) :=
  (nextOf o).map fun s => (s.results.map (·.answer), Memory.readBytes s.mem a n)

/-! ### Every mode: decoding and meaning -/

/-- T6.1: the fields of mode M1's vector. -/
def fieldsM1 : Bc6hFields :=
  ⟨⟨0x27E, 0x2B0, 0x1E4⟩, ⟨0x1B, 0x1F, 0x14⟩, ⟨0x16, 0xE, 0x1C⟩, ⟨0x15, 0x12, 0x14⟩, 3, [1, 6, 3, 0, 5, 2, 7, 4, 1, 6, 3, 0, 5, 2, 7, 0]⟩

/-- T6.1. -/
theorem test_decode_m1 :
    decodeBc6hBlock false .half4 (hexBlock 0xd84f58c9dbfd138aed6ae4a13ae3a13a) = .ok (.bc6hM1 false .half4 fieldsM1) := by
  decide +kernel

/-- T6.1: pixels 0 and 15, unsigned and signed. -/
theorem test_exec_m1 :
    texels (exec (.bc6hM1 false .half4 fieldsM1) (running (.bc6h false .half4))) [0, 15] =
        [.half4 0x4D3B 0x535B 0x3A77 0x3C00, .half4 0x4C1B 0x5511 0x3A2F 0x3C00] ∧
      texels (exec (.bc6hM1 true .half4 fieldsM1) (running (.bc6h true .half4))) [0, 15] =
        [.half4 0xDDC6 0xD187 0x74EE 0x3C00, .half4 0xE007 0xCE1B 0x745F 0x3C00] := by
  decide +kernel

/-- T6.2: the fields of mode M2's vector. -/
def fieldsM2 : Bc6hFields :=
  ⟨⟨0x4D, 0x4B, 0x21⟩, ⟨0x1A, 0x27, 0xC⟩, ⟨0x9, 0xD, 0xB⟩, ⟨0x34, 0x30, 0x25⟩, 10, [1, 6, 3, 0, 5, 2, 7, 4, 1, 6, 3, 0, 5, 2, 7, 0]⟩

/-- T6.2. -/
theorem test_decode_m2 :
    decodeBc6hBlock false .half4 (hexBlock 0xb999a542d2fa0466135ae5a13ae3a13a) = .ok (.bc6hM2 false .half4 fieldsM2) := by
  decide +kernel

/-- T6.2: pixels 0 and 15, unsigned and signed. -/
theorem test_exec_m2 :
    texels (exec (.bc6hM2 false .half4 fieldsM2) (running (.bc6h false .half4))) [0, 15] =
        [.half4 0x4E9E 0x45BC 0x2216 0x3C00, .half4 0x53CC 0x55BC 0x2B1C 0x3C00] ∧
      texels (exec (.bc6hM2 true .half4 fieldsM2) (running (.bc6h true .half4))) [0, 15] =
        [.half4 0xDCB2 0xCB52 0x442D 0x3C00, .half4 0xD258 0xCE78 0x5638 0x3C00] := by
  decide +kernel

/-- T6.3: the fields of mode M3's vector. -/
def fieldsM3 : Bc6hFields :=
  ⟨⟨0x31B, 0x3E5, 0x55D⟩, ⟨0x19, 0xF, 0x4⟩, ⟨0x1C, 0xC, 0xA⟩, ⟨0x12, 0xE, 0x5⟩, 17, [1, 6, 3, 0, 5, 2, 7, 4, 1, 6, 3, 0, 5, 2, 7, 4]⟩

/-- T6.3. -/
theorem test_decode_m3 :
    decodeBc6hBlock false .half4 (hexBlock 0x62e3f2bbcaf8754a7929e6519df1509d) = .ok (.bc6hM3 false .half4 fieldsM3) := by
  decide +kernel

/-- T6.3: pixels 0 and 15, unsigned and signed. -/
theorem test_exec_m3 :
    texels (exec (.bc6hM3 false .half4 fieldsM3) (running (.bc6h false .half4))) [0, 15] =
        [.half4 0x301B 0x3C63 0x5331 0x3C00, .half4 0x2FEB 0x3C5C 0x534D 0x3C00] ∧
      texels (exec (.bc6hM3 true .half4 fieldsM3) (running (.bc6h true .half4))) [0, 15] =
        [.half4 0x6036 0x78C6 0xD1BB 0x3C00, .half4 0x5FD7 0x78B9 0xD184 0x3C00] := by
  decide +kernel

/-- T6.4: the fields of mode M4's vector. -/
def fieldsM4 : Bc6hFields :=
  ⟨⟨0x455, 0x64F, 0x450⟩, ⟨0x5, 0x10, 0x4⟩, ⟨0x8, 0x8, 0x6⟩, ⟨0xD, 0x8, 0x6⟩, 13, [1, 6, 3, 0, 5, 2, 7, 4, 1, 6, 3, 0, 5, 2, 7, 0]⟩

/-- T6.4. -/
theorem test_decode_m4 :
    decodeBc6hBlock false .half4 (hexBlock 0xa68a27a1a81046dad0a6e5a13ae3a13a) = .ok (.bc6hM4 false .half4 fieldsM4) := by
  decide +kernel

/-- T6.4: pixels 0 and 15, unsigned and signed. -/
theorem test_exec_m4 :
    texels (exec (.bc6hM4 false .half4 fieldsM4) (running (.bc6h false .half4))) [0, 15] =
        [.half4 0x4338 0x61AD 0x42E8 0x3C00, .half4 0x42B1 0x624C 0x433C 0x3C00] ∧
      texels (exec (.bc6hM4 true .half4 fieldsM4) (running (.bc6h true .half4))) [0, 15] =
        [.half4 0xF1AE 0xB4C4 0xF24E 0x3C00, .half4 0xF2BC 0xB386 0xF1A5 0x3C00] := by
  decide +kernel

/-- T6.5: the fields of mode M5's vector. -/
def fieldsM5 : Bc6hFields :=
  ⟨⟨0x58E, 0xB9, 0x343⟩, ⟨0x1, 0x1, 0x4⟩, ⟨0x4, 0x5, 0x13⟩, ⟨0x7, 0x1, 0x16⟩, 9, [1, 6, 3, 0, 5, 2, 7, 4, 1, 6, 3, 0, 5, 2, 7, 0]⟩

/-- T6.5. -/
theorem test_decode_m5 :
    decodeBc6hBlock false .half4 (hexBlock 0xcab15c868e2b0862e82be5a13ae3a13a) = .ok (.bc6hM5 false .half4 fieldsM5) := by
  decide +kernel

/-- T6.5: pixels 0 and 15, unsigned and signed. -/
theorem test_exec_m5 :
    texels (exec (.bc6hM5 false .half4 fieldsM5) (running (.bc6h false .half4))) [0, 15] =
        [.half4 0x5623 0x0B3D 0x329E 0x3C00, .half4 0x565E 0x0B88 0x31CC 0x3C00] ∧
      texels (exec (.bc6hM5 true .half4 fieldsM5) (running (.bc6h true .half4))) [0, 15] =
        [.half4 0xCBD8 0x167B 0x653D 0x3C00, .half4 0xCB61 0x1711 0x6399 0x3C00] := by
  decide +kernel

/-- T6.6: the fields of mode M6's vector. -/
def fieldsM6 : Bc6hFields :=
  ⟨⟨0xC8, 0x122, 0x36⟩, ⟨0xE, 0x12, 0x4⟩, ⟨0x0, 0x2, 0xF⟩, ⟨0x1, 0x1A, 0x17⟩, 5, [1, 6, 3, 0, 5, 2, 7, 4, 1, 6, 3, 0, 5, 2, 7, 0]⟩

/-- T6.6. -/
theorem test_decode_m6 :
    decodeBc6hBlock false .half4 (hexBlock 0x0e19916c744556f2c1a0e4a13ae3a13a) = .ok (.bc6hM6 false .half4 fieldsM6) := by
  decide +kernel

/-- T6.6: pixels 0 and 15, unsigned and signed. -/
theorem test_exec_m6 :
    texels (exec (.bc6hM6 false .half4 fieldsM6) (running (.bc6h false .half4))) [0, 15] =
        [.half4 0x3109 0x45E0 0x0D55 0x3C00, .half4 0x308F 0x46D7 0x10D5 0x3C00] ∧
      texels (exec (.bc6hM6 true .half4 fieldsM6) (running (.bc6h true .half4))) [0, 15] =
        [.half4 0x6212 0xECBA 0x1AAB 0x3C00, .half4 0x611E 0xEACE 0x21AA 0x3C00] := by
  decide +kernel

/-- T6.7: the fields of mode M7's vector. -/
def fieldsM7 : Bc6hFields :=
  ⟨⟨0x2, 0x8C, 0x29⟩, ⟨0xA, 0x13, 0x4⟩, ⟨0xC, 0x1E, 0xB⟩, ⟨0x3B, 0x14, 0x18⟩, 1, [1, 6, 3, 0, 5, 2, 7, 4, 1, 6, 3, 0, 5, 2, 7, 0]⟩

/-- T6.7. -/
theorem test_decode_m7 :
    decodeBc6hBlock false .half4 (hexBlock 0x52204653567c2262993de4a13ae3a13a) = .ok (.bc6hM7 false .half4 fieldsM7) := by
  decide +kernel

/-- T6.7: pixels 0 and 15, unsigned and signed. -/
theorem test_exec_m7 :
    texels (exec (.bc6hM7 false .half4 fieldsM7) (running (.bc6h false .half4))) [0, 15] =
        [.half4 0x01E4 0x432B 0x145F 0x3C00, .half4 0x0706 0x4316 0x196E 0x3C00] ∧
      texels (exec (.bc6hM7 true .half4 fieldsM7) (running (.bc6h true .half4))) [0, 15] =
        [.half4 0x03C8 0xCF8D 0x28BF 0x3C00, .half4 0x0E0C 0xF2CC 0x32DC 0x3C00] := by
  decide +kernel

/-- T6.8: the fields of mode M8's vector. -/
def fieldsM8 : Bc6hFields :=
  ⟨⟨0x3C, 0xF5, 0x1C⟩, ⟨0x6, 0x14, 0x3⟩, ⟨0x18, 0x1B, 0x7⟩, ⟨0x15, 0xD, 0x19⟩, 29, [1, 6, 3, 0, 5, 2, 7, 4, 1, 6, 3, 0, 5, 2, 7, 4]⟩

/-- T6.8. -/
theorem test_decode_m8 :
    decodeBc6hBlock false .half4 (hexBlock 0x96a77a393496eae1b0bae7a13af3509d) = .ok (.bc6hM8 false .half4 fieldsM8) := by
  decide +kernel

/-- T6.8: pixels 0 and 15, unsigned and signed. -/
theorem test_exec_m8 :
    texels (exec (.bc6hM8 false .half4 fieldsM8) (running (.bc6h false .half4))) [0, 15] =
        [.half4 0x1DB6 0x66D6 0x0E02 0x3C00, .half4 0x1EFC 0x34D3 0x0EA5 0x3C00] ∧
      texels (exec (.bc6hM8 true .half4 fieldsM8) (running (.bc6h true .half4))) [0, 15] =
        [.half4 0x3B6D 0x8847 0x1C04 0x3C00, .half4 0x3DF8 0x009E 0x1D4A 0x3C00] := by
  decide +kernel

/-- T6.9: the fields of mode M9's vector. -/
def fieldsM9 : Bc6hFields :=
  ⟨⟨0x75, 0x5F, 0xE⟩, ⟨0x2, 0x15, 0x23⟩, ⟨0x4, 0x17, 0x3⟩, ⟨0xF, 0x6, 0x19⟩, 25, [1, 6, 3, 0, 5, 2, 7, 4, 1, 6, 3, 0, 5, 2, 7, 4]⟩

/-- T6.9. -/
theorem test_decode_m9 :
    decodeBc6hBlock false .half4 (hexBlock 0xba8e2f1d14aeb6718837e7a13af3509d) = .ok (.bc6hM9 false .half4 fieldsM9) := by
  decide +kernel

/-- T6.9: pixels 0 and 15, unsigned and signed. -/
theorem test_exec_m9 :
    texels (exec (.bc6hM9 false .half4 fieldsM9) (running (.bc6h false .half4))) [0, 15] =
        [.half4 0x390C 0x2D82 0x167C 0x3C00, .half4 0x3979 0x2B2D 0x4697 0x3C00] ∧
      texels (exec (.bc6hM9 true .half4 fieldsM9) (running (.bc6h true .half4))) [0, 15] =
        [.half4 0x7219 0x5B04 0x09F5 0x3C00, .half4 0x72F2 0x565A 0x82C1 0x3C00] := by
  decide +kernel

/-- T6.10: the fields of mode M10's vector. -/
def fieldsM10 : Bc6hFields :=
  ⟨⟨0x2F, 0x9, 0x1⟩, ⟨0x3F, 0x16, 0x3⟩, ⟨0x30, 0x14, 0x0⟩, ⟨0x29, 0x0, 0x1A⟩, 21, [1, 6, 3, 0, 5, 2, 7, 4, 1, 6, 3, 0, 5, 2, 7, 4]⟩

/-- T6.10. -/
theorem test_decode_m10 :
    decodeBc6hBlock false .half4 (hexBlock 0xfea50403fdc98201e0b4e6a13af3509d) = .ok (.bc6hM10 false .half4 fieldsM10) := by
  decide +kernel

/-- T6.10: pixels 0 and 15, unsigned and signed. -/
theorem test_exec_m10 :
    texels (exec (.bc6hM10 false .half4 fieldsM10) (running (.bc6h false .half4))) [0, 15] =
        [.half4 0x6086 0x15F2 0x0373 0x3C00, .half4 0x6E82 0x20F7 0x0525 0x3C00] ∧
      texels (exec (.bc6hM10 true .half4 fieldsM10) (running (.bc6h true .half4))) [0, 15] =
        [.half4 0xBB18 0x2BE5 0x06E7 0x3C00, .half4 0x9FF8 0x41EF 0x0A4B 0x3C00] := by
  decide +kernel

/-- T6.11: the fields of mode M11's vector. -/
def fieldsM11 : Bc6hFields :=
  ⟨⟨0x169, 0x280, 0x31A⟩, ⟨0x318, 0x3B7, 0x7C⟩, ⟨0, 0, 0⟩, ⟨0, 0, 0⟩, 0, [1, 6, 11, 0, 5, 10, 15, 4, 9, 14, 3, 8, 13, 2, 7, 12]⟩

/-- T6.11. -/
theorem test_decode_m11 :
    decodeBc6hBlock false .half4 (hexBlock 0x232d4035c6f8763e620ba54fe9832dc7) = .ok (.bc6hM11 false .half4 fieldsM11) := by
  decide +kernel

/-- T6.11: pixels 0 and 15, unsigned and signed. -/
theorem test_exec_m11 :
    texels (exec (.bc6hM11 false .half4 fieldsM11) (running (.bc6h false .half4))) [0, 15] =
        [.half4 0x2F09 0x4FEA 0x5B23 0x3C00, .half4 0x555D 0x6B92 0x1F8E 0x3C00] ∧
      texels (exec (.bc6hM11 true .half4 fieldsM11) (running (.bc6h true .half4))) [0, 15] =
        [.half4 0x4E8F 0xD869 0xB273 0x3C00, .half4 0x9B16 0xA119 0x0CB0 0x3C00] := by
  decide +kernel

/-- T6.12: the fields of mode M12's vector. -/
def fieldsM12 : Bc6hFields :=
  ⟨⟨0x2A3, 0xE9, 0x20D⟩, ⟨0x114, 0xD8, 0x1DC⟩, ⟨0, 0, 0⟩, ⟨0, 0, 0⟩, 0, [1, 6, 11, 0, 5, 10, 15, 4, 9, 14, 3, 8, 13, 2, 7, 12]⟩

/-- T6.12. -/
theorem test_decode_m12 :
    decodeBc6hBlock false .half4 (hexBlock 0x67d4741aa4081bee620ba54fe9832dc7) = .ok (.bc6hM12 false .half4 fieldsM12) := by
  decide +kernel

/-- T6.12: pixels 0 and 15, unsigned and signed. -/
theorem test_exec_m12 :
    texels (exec (.bc6hM12 false .half4 fieldsM12) (running (.bc6h false .half4))) [0, 15] =
        [.half4 0x2801 0x0EF4 0x1FAE 0x3C00, .half4 0x1D83 0x188F 0x1E14 0x3C00] ∧
      texels (exec (.bc6hM12 true .half4 fieldsM12) (running (.bc6h true .half4))) [0, 15] =
        [.half4 0x5003 0x1DE9 0x3F5C 0x3C00, .half4 0x3B06 0x311E 0x3C29 0x3C00] := by
  decide +kernel

/-- T6.13: the fields of mode M13's vector. -/
def fieldsM13 : Bc6hFields :=
  ⟨⟨0xBDD, 0xB53, 0x900⟩, ⟨0x10, 0xF9, 0x3C⟩, ⟨0, 0, 0⟩, ⟨0, 0, 0⟩, 0, [1, 6, 11, 0, 5, 10, 15, 4, 9, 14, 3, 8, 13, 2, 7, 12]⟩

/-- T6.13. -/
theorem test_decode_m13 :
    decodeBc6hBlock false .half4 (hexBlock 0xabfba90182283f9e620ba54fe9832dc7) = .ok (.bc6hM13 false .half4 fieldsM13) := by
  decide +kernel

/-- T6.13: pixels 0 and 15, unsigned and signed. -/
theorem test_exec_m13 :
    texels (exec (.bc6hM13 false .half4 fieldsM13) (running (.bc6h false .half4))) [0, 15] =
        [.half4 0x5BFC 0x57C3 0x45E0 0x3C00, .half4 0x5C57 0x579C 0x4736 0x3C00] ∧
      texels (exec (.bc6hM13 true .half4 fieldsM13) (running (.bc6h true .half4))) [0, 15] =
        [.half4 0xC016 0xC888 0xEC4D 0x3C00, .half4 0xBF60 0xC8D7 0xE9A2 0x3C00] := by
  decide +kernel

/-- T6.14: the fields of mode M14's vector. -/
def fieldsM14 : Bc6hFields :=
  ⟨⟨0x6517, 0x5BD, 0xDFF3⟩, ⟨0xD, 0xA, 0xC⟩, ⟨0, 0, 0⟩, ⟨0, 0, 0⟩, 0, [1, 6, 11, 0, 5, 10, 15, 4, 9, 14, 3, 8, 13, 2, 7, 12]⟩

/-- T6.14. -/
theorem test_decode_m14 :
    decodeBc6hBlock false .half4 (hexBlock 0xefa2dee66f5341de630ba54fe9832dc7) = .ok (.bc6hM14 false .half4 fieldsM14) := by
  decide +kernel

/-- T6.14: pixels 0 and 15, unsigned and signed. -/
theorem test_exec_m14 :
    texels (exec (.bc6hM14 false .half4 fieldsM14) (running (.bc6h false .half4))) [0, 15] =
        [.half4 0x30F7 0x02C7 0x6C79 0x3C00, .half4 0x30F6 0x02C5 0x6C78 0x3C00] ∧
      texels (exec (.bc6hM14 true .half4 fieldsM14) (running (.bc6h true .half4))) [0, 15] =
        [.half4 0x61EE 0x058F 0x9F0C 0x3C00, .half4 0x61EC 0x058A 0x9F0F 0x3C00] := by
  decide +kernel

/-- S2: a block of code 0x13, its 123 other bits kept as they are. -/
theorem test_decode_reserved_13 :
    decodeBc6hBlock true .half4 (hexBlock 0x73a5c3e1000000000000000000005aa5) = .ok (.bc6hReserved13 true .half4 0x52AD0000000000000000000070E1D2B#123) := by
  decide +kernel

/-- S2: opaque black with status OK. -/
theorem test_exec_reserved_13 :
    texels (exec (.bc6hReserved13 true .float4 0x52AD0000000000000000000070E1D2B#123) (running (.bc6h true .float4))) [0, 15] =
        [.float4 0 0 0 0x3F800000, .float4 0 0 0 0x3F800000] ∧
      statusOf (exec (.bc6hReserved13 true .float4 0x52AD0000000000000000000070E1D2B#123) (running (.bc6h true .float4))) = some .ok := by
  decide +kernel

/-- S2: a block of code 0x17, its 123 other bits kept as they are. -/
theorem test_decode_reserved_17 :
    decodeBc6hBlock true .half4 (hexBlock 0xf7ffffffffffffffffffffffffffffff) = .ok (.bc6hReserved17 true .half4 0x7FFFFFFFFFFFFFFFFFFFFFFFFFFFFFF#123) := by
  decide +kernel

/-- S2: opaque black with status OK. -/
theorem test_exec_reserved_17 :
    texels (exec (.bc6hReserved17 true .float4 0x7FFFFFFFFFFFFFFFFFFFFFFFFFFFFFF#123) (running (.bc6h true .float4))) [0, 15] =
        [.float4 0 0 0 0x3F800000, .float4 0 0 0 0x3F800000] ∧
      statusOf (exec (.bc6hReserved17 true .float4 0x7FFFFFFFFFFFFFFFFFFFFFFFFFFFFFF#123) (running (.bc6h true .float4))) = some .ok := by
  decide +kernel

/-- S2: a block of code 0x1B, its 123 other bits kept as they are. -/
theorem test_decode_reserved_1b :
    decodeBc6hBlock true .half4 (hexBlock 0xfbffffffffffffffffffffffffffffff) = .ok (.bc6hReserved1B true .half4 0x7FFFFFFFFFFFFFFFFFFFFFFFFFFFFFF#123) := by
  decide +kernel

/-- S2: opaque black with status OK. -/
theorem test_exec_reserved_1b :
    texels (exec (.bc6hReserved1B true .float4 0x7FFFFFFFFFFFFFFFFFFFFFFFFFFFFFF#123) (running (.bc6h true .float4))) [0, 15] =
        [.float4 0 0 0 0x3F800000, .float4 0 0 0 0x3F800000] ∧
      statusOf (exec (.bc6hReserved1B true .float4 0x7FFFFFFFFFFFFFFFFFFFFFFFFFFFFFF#123) (running (.bc6h true .float4))) = some .ok := by
  decide +kernel

/-- S2: a block of code 0x1F, its 123 other bits kept as they are. -/
theorem test_decode_reserved_1f :
    decodeBc6hBlock true .half4 (hexBlock 0xffffffffffffffffffffffffffffffff) = .ok (.bc6hReserved1F true .half4 0x7FFFFFFFFFFFFFFFFFFFFFFFFFFFFFF#123) := by
  decide +kernel

/-- S2: opaque black with status OK. -/
theorem test_exec_reserved_1f :
    texels (exec (.bc6hReserved1F true .float4 0x7FFFFFFFFFFFFFFFFFFFFFFFFFFFFFF#123) (running (.bc6h true .float4))) [0, 15] =
        [.float4 0 0 0 0x3F800000, .float4 0 0 0 0x3F800000] ∧
      statusOf (exec (.bc6hReserved1F true .float4 0x7FFFFFFFFFFFFFFFFFFFFFFFFFFFFFF#123) (running (.bc6h true .float4))) = some .ok := by
  decide +kernel

/-- T7.0: the fields of mode 0's vector. -/
def fields7Mode0 : Bc7Fields :=
  ⟨5, 0, 0, [⟨2, 7, 14, 0⟩, ⟨14, 14, 9, 0⟩, ⟨0, 7, 14, 0⟩, ⟨4, 13, 7, 0⟩, ⟨14, 4, 14, 0⟩, ⟨10, 9, 5, 0⟩], [0, 0, 0, 0, 1, 0],
    [1, 4, 7, 2, 5, 0, 3, 6, 1, 4, 7, 2, 5, 0, 3, 2], []⟩

/-- T7.0. -/
theorem test_decode_bc7_mode0 : decodeBc7Block (hexBlock 0x4b1cc8f5fc9ad2d3cf0b8ab798c3ab98) = .bc7Mode0 fields7Mode0 := by
  decide +kernel

/-- T7.0: the unquantized endpoints, and pixels 0 and 15. -/
theorem test_exec_bc7_mode0 :
    endsOf (exec (.bc7Mode0 fields7Mode0) (running .bc7)) 6 =
        [⟨33, 115, 231, 255⟩, ⟨231, 231, 148, 255⟩, ⟨0, 115, 231, 255⟩, ⟨66, 214, 115, 255⟩, ⟨239, 74, 239, 255⟩, ⟨165, 148, 82, 255⟩] ∧
      texels (exec (.bc7Mode0 fields7Mode0) (running .bc7)) [0, 15] =
        [.rgba8 61 131 219 255, .rgba8 218 95 195 255] := by
  decide +kernel

/-- T7.1: the fields of mode 1's vector. -/
def fields7Mode1 : Bc7Fields :=
  ⟨16, 0, 0, [⟨33, 1, 27, 0⟩, ⟨61, 23, 17, 0⟩, ⟨35, 23, 29, 0⟩, ⟨3, 11, 8, 0⟩], [0, 0],
    [1, 4, 7, 2, 5, 0, 3, 6, 1, 4, 7, 2, 5, 0, 3, 2], []⟩

/-- T7.1. -/
theorem test_decode_bc7_mode1 : decodeBc7Block (hexBlock 0x42613f0ec1752d5bd421c4ab98c3ab98) = .bc7Mode1 fields7Mode1 := by
  decide +kernel

/-- T7.1: the unquantized endpoints, and pixels 0 and 15. -/
theorem test_exec_bc7_mode1 :
    endsOf (exec (.bc7Mode1 fields7Mode1) (running .bc7)) 4 =
        [⟨133, 4, 108, 255⟩, ⟨245, 92, 68, 255⟩, ⟨141, 92, 116, 255⟩, ⟨12, 44, 32, 255⟩] ∧
      texels (exec (.bc7Mode1 fields7Mode1) (running .bc7)) [0, 15] =
        [.rgba8 149 16 102 255, .rgba8 105 79 92 255] := by
  decide +kernel

/-- T7.2: the fields of mode 2's vector. -/
def fields7Mode2 : Bc7Fields :=
  ⟨27, 0, 0, [⟨15, 28, 23, 0⟩, ⟨28, 31, 9, 0⟩, ⟨22, 22, 12, 0⟩, ⟨1, 9, 24, 0⟩, ⟨19, 16, 12, 0⟩, ⟨15, 16, 2, 0⟩], [],
    [1, 0, 3, 2, 1, 0, 1, 2, 1, 0, 1, 2, 1, 0, 3, 2], []⟩

/-- T7.2. -/
theorem test_decode_bc7_mode2 : decodeBc7Block (hexBlock 0xdc1eb7613efe6d82f0268699c846a3b1) = .bc7Mode2 fields7Mode2 := by
  decide +kernel

/-- T7.2: the unquantized endpoints, and pixels 0 and 15. -/
theorem test_exec_bc7_mode2 :
    endsOf (exec (.bc7Mode2 fields7Mode2) (running .bc7)) 6 =
        [⟨123, 231, 189, 255⟩, ⟨231, 255, 74, 255⟩, ⟨181, 181, 99, 255⟩, ⟨8, 74, 198, 255⟩, ⟨156, 132, 99, 255⟩, ⟨123, 132, 16, 255⟩] ∧
      texels (exec (.bc7Mode2 fields7Mode2) (running .bc7)) [0, 15] =
        [.rgba8 158 239 151 255, .rgba8 65 109 166 255] := by
  decide +kernel

/-- T7.3: the fields of mode 3's vector. -/
def fields7Mode3 : Bc7Fields :=
  ⟨38, 0, 0, [⟨62, 54, 20, 0⟩, ⟨60, 39, 1, 0⟩, ⟨73, 21, 59, 0⟩, ⟨0, 8, 40, 0⟩], [0, 0, 0, 1],
    [1, 0, 3, 2, 1, 0, 3, 2, 1, 0, 3, 2, 1, 0, 3, 0], []⟩

/-- T7.3. -/
theorem test_decode_bc7_mode3 : decodeBc7Block (hexBlock 0x68fa784980ed544150023b1466636363) = .bc7Mode3 fields7Mode3 := by
  decide +kernel

/-- T7.3: the unquantized endpoints, and pixels 0 and 15. -/
theorem test_exec_bc7_mode3 :
    endsOf (exec (.bc7Mode3 fields7Mode3) (running .bc7)) 4 =
        [⟨124, 108, 40, 255⟩, ⟨120, 78, 2, 255⟩, ⟨146, 42, 118, 255⟩, ⟨1, 17, 81, 255⟩] ∧
      texels (exec (.bc7Mode3 fields7Mode3) (running .bc7)) [0, 15] =
        [.rgba8 123 98 28 255, .rgba8 146 42 118 255] := by
  decide +kernel

/-- T7.4: the fields of mode 4's vector. -/
def fields7Mode4 : Bc7Fields :=
  ⟨0, 1, 1, [⟨12, 17, 17, 59⟩, ⟨15, 25, 29, 52⟩], [],
    [1, 0, 3, 2, 1, 0, 3, 2, 1, 0, 3, 2, 1, 0, 3, 2], [2, 7, 4, 1, 6, 3, 0, 5, 2, 7, 4, 1, 6, 3, 0, 5]⟩

/-- T7.4. -/
theorem test_decode_bc7_mode4 : decodeBc7Block (hexBlock 0xb0ecc51cfb4e676363633de3a13ae3a1) = .bc7Mode4 fields7Mode4 := by
  decide +kernel

/-- T7.4: the unquantized endpoints, and pixels 0 and 15. -/
theorem test_exec_bc7_mode4 :
    endsOf (exec (.bc7Mode4 fields7Mode4) (running .bc7)) 2 =
        [⟨99, 140, 140, 239⟩, ⟨123, 206, 239, 211⟩] ∧
      texels (exec (.bc7Mode4 fields7Mode4) (running .bc7)) [0, 15] =
        [.rgba8 230 159 168 106, .rgba8 220 187 211 116] := by
  decide +kernel

/-- T7.5: the fields of mode 5's vector. -/
def fields7Mode5 : Bc7Fields :=
  ⟨0, 3, 0, [⟨90, 107, 14, 58⟩, ⟨55, 49, 112, 83⟩], [],
    [1, 0, 3, 2, 1, 0, 3, 2, 1, 0, 3, 2, 1, 0, 3, 2], [0, 3, 0, 1, 2, 3, 0, 1, 2, 3, 0, 1, 2, 3, 0, 1]⟩

/-- T7.5. -/
theorem test_decode_bc7_mode5 : decodeBc7Block (hexBlock 0xe0dadb3ae680eb4c656363634d4e4e4e) = .bc7Mode5 fields7Mode5 := by
  decide +kernel

/-- T7.5: the unquantized endpoints, and pixels 0 and 15. -/
theorem test_exec_bc7_mode5 :
    endsOf (exec (.bc7Mode5 fields7Mode5) (running .bc7)) 2 =
        [⟨181, 215, 28, 58⟩, ⟨110, 98, 225, 83⟩] ∧
      texels (exec (.bc7Mode5 fields7Mode5) (running .bc7)) [0, 15] =
        [.rgba8 158 177 58 93, .rgba8 133 136 66 160] := by
  decide +kernel

/-- T7.6: the fields of mode 6's vector. -/
def fields7Mode6 : Bc7Fields :=
  ⟨0, 0, 0, [⟨41, 5, 74, 57⟩, ⟨0, 9, 67, 50⟩], [0, 0],
    [1, 4, 7, 10, 13, 0, 3, 6, 9, 12, 15, 2, 5, 8, 11, 14], []⟩

/-- T7.6. -/
theorem test_decode_bc7_mode6 : decodeBc7Block (hexBlock 0xc014a090500e733242a70d63c92f85eb) = .bc7Mode6 fields7Mode6 := by
  decide +kernel

/-- T7.6: the unquantized endpoints, and pixels 0 and 15. -/
theorem test_exec_bc7_mode6 :
    endsOf (exec (.bc7Mode6 fields7Mode6) (running .bc7)) 2 =
        [⟨82, 10, 148, 114⟩, ⟨0, 18, 134, 100⟩] ∧
      texels (exec (.bc7Mode6 fields7Mode6) (running .bc7)) [0, 15] =
        [.rgba8 77 11 147 113, .rgba8 5 18 135 101] := by
  decide +kernel

/-- T7.7: the fields of mode 7's vector. -/
def fields7Mode7 : Bc7Fields :=
  ⟨18, 0, 0, [⟨23, 0, 7, 24⟩, ⟨8, 1, 22, 17⟩, ⟨23, 26, 1, 9⟩, ⟨18, 7, 21, 26⟩], [0, 1, 0, 1],
    [1, 0, 3, 2, 1, 0, 3, 2, 1, 0, 3, 2, 1, 0, 3, 2], []⟩

/-- T7.7. -/
theorem test_decode_bc7_mode7 : decodeBc7Block (hexBlock 0x80d2455782a0cfb1a1e298b46663b3b1) = .bc7Mode7 fields7Mode7 := by
  decide +kernel

/-- T7.7: the unquantized endpoints, and pixels 0 and 15. -/
theorem test_exec_bc7_mode7 :
    endsOf (exec (.bc7Mode7 fields7Mode7) (running .bc7)) 4 =
        [⟨186, 0, 56, 195⟩, ⟨69, 12, 182, 142⟩, ⟨186, 211, 8, 73⟩, ⟨150, 60, 174, 215⟩] ∧
      texels (exec (.bc7Mode7 fields7Mode7) (running .bc7)) [0, 15] =
        [.rgba8 148 4 97 178, .rgba8 107 8 141 159] := by
  decide +kernel

/-- S3, C2: bits 0 to 7 zero, bit 8 set: still the reserved mode. -/
theorem test_decode_bc7_reserved : decodeBc7Block (hexBlock 0x0001000000000000000000000000ffff) = .bc7Reserved 0xFFFF00000000000000000000000001#120 := by
  decide +kernel

/-- S3: transparent black with status OK. -/
theorem test_exec_bc7_reserved :
    texels (exec (.bc7Reserved 0xFFFF00000000000000000000000001#120) (running .bc7)) [0, 15] = [.rgba8 0 0 0 0, .rgba8 0 0 0 0] ∧
      statusOf (exec (.bc7Reserved 0xFFFF00000000000000000000000001#120) (running .bc7)) = some .ok := by
  decide +kernel

/-! ### Corner cases of the modes -/

/-- T6.15: M14, base −32768, signed: red is half −infinity. -/
theorem test_m14_negative_infinity :
    texels (exec (.bc6hM14 true .half4
      ⟨⟨0x8000, 0x7FFF, 0⟩, ⟨0, 0, 0⟩, ⟨0, 0, 0⟩, ⟨0, 0, 0⟩, 0, List.replicate 16 0⟩) (running (.bc6h true .half4))) [3] =
      [.half4 0xFC00 0x7BFF 0x0000 0x3C00] := by
  decide +kernel

/-- T6.15: M1, transform wrap: base 0 and delta −1. -/
theorem test_m1_transform_wrap :
    decodeBc6hBlock false .half3 (hexBlock 0x00000000f8e0830f0000700000000000) = .ok (.bc6hM1 false .half3
      ⟨⟨0, 0, 0⟩, ⟨0x1F, 0x1F, 0x1F⟩, ⟨0, 0, 0⟩, ⟨0, 0, 0⟩, 0, [0, 7, 0, 0, 0, 0, 0, 0, 0, 0, 0, 0, 0, 0, 0, 0]⟩) ∧
    texels (exec (.bc6hM1 false .half3
      ⟨⟨0, 0, 0⟩, ⟨0x1F, 0x1F, 0x1F⟩, ⟨0, 0, 0⟩, ⟨0, 0, 0⟩, 0, [0, 7, 0, 0, 0, 0, 0, 0, 0, 0, 0, 0, 0, 0, 0, 0]⟩)
      (running (.bc6h false .half3))) [0, 1] =
      [.half3 0x0000 0x0000 0x0000, .half3 0x7BFF 0x7BFF 0x7BFF] := by
  decide +kernel

/-- S4: M11, indices 1, 8 and 14, whose weights no source sentence gives. -/
theorem test_m11_weights :
    texels (exec (.bc6hM11 false .half4
      ⟨⟨100, 0, 500⟩, ⟨900, 1023, 500⟩, ⟨0, 0, 0⟩, ⟨0, 0, 0⟩, 0, List.range 16⟩) (running (.bc6h false .half4)))
      [1, 8, 14] =
      [.half4 0x1239 0x07C0 0x3C9B 0x3C00, .half4 0x3FA2 0x41DF 0x3C9B 0x3C00,
       .half4 0x66FD 0x743F 0x3C9B 0x3C00] := by
  decide +kernel

/-- T7.8: mode 4 with rotation 2 and index mode 0. -/
theorem test_bc7_mode4_rotation :
    decodeBc7Block (hexBlock 0x50ecc51cfb4e676363633de3a13ae3a1) =
      .bc7Mode4 { fields7Mode4 with rot := 2, imode := 0 } ∧
    texels (exec (.bc7Mode4 { fields7Mode4 with rot := 2, imode := 0 }) (running .bc7)) [0, 15] =
      [.rgba8 107 231 172 162, .rgba8 115 219 207 184] := by
  decide +kernel

/-- S4: mode 6 with the P-bits 0 and 1, at indices 0, 7 and 15. -/
theorem test_bc7_mode6_pbits :
    texels (exec (.bc7Mode6 ⟨0, 0, 0, [⟨10, 20, 30, 40⟩, ⟨100, 120, 127, 127⟩], [0, 1], List.range 16, []⟩)
      (running .bc7)) [0, 7, 15] = [.rgba8 20 40 60 80, .rgba8 105 134 151 162, .rgba8 201 241 255 255] := by
  decide +kernel

/-! ### Words of the opcode table -/

/-- The match value of every row, read in the row's own space, is the row's instruction (all other bits 0). -/
theorem test_table_rows_bc6h :
    ([0x00, 0x01, 0x02, 0x06, 0x0A, 0x0E, 0x12, 0x16, 0x1A, 0x1E, 0x03, 0x07, 0x0B, 0x0F].map fun w =>
      match decodeBytes tableBc6h Operands.tableRecord (tableBytes 8 w) with
      | .ok (.bc6hM1 ..) => 1 | .ok (.bc6hM2 ..) => 2 | .ok (.bc6hM3 ..) => 3 | .ok (.bc6hM4 ..) => 4
      | .ok (.bc6hM5 ..) => 5 | .ok (.bc6hM6 ..) => 6 | .ok (.bc6hM7 ..) => 7 | .ok (.bc6hM8 ..) => 8
      | .ok (.bc6hM9 ..) => 9 | .ok (.bc6hM10 ..) => 10 | .ok (.bc6hM11 ..) => 11 | .ok (.bc6hM12 ..) => 12
      | .ok (.bc6hM13 ..) => 13 | .ok (.bc6hM14 ..) => 14 | _ => 0) =
      [1, 2, 3, 4, 5, 6, 7, 8, 9, 10, 11, 12, 13, 14] := by
  decide +kernel

/-- T5: byte 0 alone selects the BC7 mode. -/
theorem test_table_rows_bc7 :
    ([0x01, 0x03, 0xFF, 0x02, 0x06, 0x04, 0x08, 0x10, 0x20, 0x40, 0x80, 0x00].map fun w =>
      bc7ModeRead (blockOfBytes (tableBytes 8 w))) = [0, 0, 0, 1, 1, 2, 3, 4, 5, 6, 7, 8] := by
  decide +kernel

/-- T4: block bits 4:0 select the BC6H code, of a prefix of 2 or 5 bits. -/
theorem test_mode_dispatch :
    ((List.range 32).map fun w => bc6hModeRead (BitVec.ofNat 128 w)) =
      [(0, 2), (1, 2), (2, 5), (3, 5), (0, 2), (1, 2), (6, 5), (7, 5), (0, 2), (1, 2), (10, 5), (11, 5), (0, 2), (1, 2),
       (14, 5), (15, 5), (0, 2), (1, 2), (18, 5), (19, 5), (0, 2), (1, 2), (22, 5), (23, 5), (0, 2), (1, 2), (26, 5),
       (27, 5), (0, 2), (1, 2), (30, 5), (31, 5)] := by
  decide +kernel

/-- A placed request is what the next step runs: DECODE_BC7 of the zero block at address 0, the reserved mode. -/
theorem test_fetch_request :
    memoryOf (step (State.reset.withFetchWord 8 0x01)) 0 4 = some ([.decoded .ok], [0, 0, 0, 0]) := by
  decide +kernel

/-- A placed block is what the next step runs: the word 0x80 is BC7 mode 7, all fields 0. -/
theorem test_fetch_block :
    texels (step (State.reset.withFetchWord 8 0x80)) [0] = [.rgba8 0 0 0 0] ∧
      (regsOf (step (State.reset.withFetchWord 8 0x80))).map (·.code) = some 7 := by
  decide +kernel

/-! ### The bit cursor (T2) -/

theorem test_cursor_bit :
    Bits.getBit (hexBlock 0x03000000000000000000000000000000) 0 = (true, 1) ∧
      Bits.getBit (hexBlock 0x03000000000000000000000000000000) 2 = (false, 3) ∧
      Bits.getBit (hexBlock 0xc0020000000000000000000000000080) 127 = (true, 128) := by
  decide +kernel

theorem test_cursor_bits :
    Bits.getBits (hexBlock 0xc0020000000000000000000000000080) 6 4 = (11, 10) ∧
      Bits.getBits (hexBlock 0xc0020000000000000000000000000080) 120 8 = (128, 128) ∧
      Bits.getBits (hexBlock 0xc0020000000000000000000000000080) 5 0 = (0, 5) ∧
      Bits.getBits (hexBlock 0xa5000000000000000000000000000000) 1 3 = (2, 4) := by
  decide +kernel

/-! ### The color helpers (T3) -/

theorem test_interp :
    Color.interp 0 255 21 = 84 ∧ Color.interp 0 255 32 = 128 ∧ Color.interp 23136 50720 4 = 24860 ∧
      Color.interp (-1) 0 32 = 0 ∧ Color.interp (-10) (-11) 32 = -10 ∧ Color.interp (-32768) 32767 64 = 32767 := by
  decide +kernel

theorem test_sext :
    Color.sext 5 0x1F = -1 ∧ Color.sext 5 0x10 = -16 ∧ Color.sext 5 0xF = 15 ∧ Color.sext 10 0x200 = -512 ∧
      Color.sext 1 0 = 0 ∧ Color.sext 1 1 = -1 ∧ Color.sext 16 0x8000 = -32768 := by
  decide +kernel

theorem test_unquantize :
    Color.unquantize false 10 361 = 23136 ∧ Color.unquantize false 10 1023 = 65535 ∧
      Color.unquantize false 4 7 = 30720 ∧ Color.unquantize false 16 12345 = 12345 ∧
      Color.unquantize false 15 32767 = 32767 ∧ Color.unquantize true 10 (-1) = -96 ∧
      Color.unquantize true 10 510 = 32672 ∧ Color.unquantize true 10 (-512) = -32767 ∧
      Color.unquantize true 6 15 = 15872 ∧ Color.unquantize true 16 (-32768) = -32768 := by
  decide +kernel

theorem test_finish_half :
    Color.finish false 65535 = 31743 ∧ Color.finish true (-32768) = -31744 ∧ Color.finish true (-33) = -31 ∧
      Color.finish true (-1) = 0 ∧ Color.toHalf false 12041 = 0x2F09#16 ∧ Color.toHalf true (-16406) = 0xC016#16 ∧
      Color.toHalf true (-1) = 0x8001#16 ∧ Color.toHalf true 0 = 0x0000#16 := by
  decide +kernel

theorem test_h2f :
    Color.h2f 0x3C00#16 = 0x3F800000#32 ∧ Color.h2f 0x8000#16 = 0x80000000#32 ∧
      Color.h2f 0x0001#16 = 0x33800000#32 ∧ Color.h2f 0x03FF#16 = 0x387FC000#32 ∧
      Color.h2f 0x0400#16 = 0x38800000#32 ∧ Color.h2f 0x7BFF#16 = 0x477FE000#32 ∧
      Color.h2f 0xFC00#16 = 0xFF800000#32 := by
  decide +kernel

theorem test_unq8 :
    Color.unq8 12 5 = 99 ∧ Color.unq8 59 6 = 239 ∧ Color.unq8 64 7 = 129 ∧ Color.unq8 200 8 = 200 ∧
      Color.unq8 1 1 = 192 := by
  decide +kernel

/-! ### The sampler's coordinates (T8) -/

/-- T8, as binary32 patterns: 1.5, 0.5, 1.0, 2.0, −0.05, −0.2, the value after 1.0, the one before it, 3.75. -/
theorem test_texel_coord :
    [0x3FC00000#32, 0x3F000000#32, 0x3F800000#32, 0x40000000#32, 0xBD4CCCCD#32, 0xBE4CCCCD#32, 0x3F800001#32,
      0x3F7FFFFE#32, 0x40700000#32].map (Fl32.texelCoord 8#32) =
      [some 4#32, some 4#32, some 7#32, some 0#32, some 0#32, some 0xFFFFFFFF#32, some 0#32, some 7#32, some 5#32] := by
  decide +kernel

/-- T8: extents 1, 5, 16 and 0; NaN and the infinities do not convert. -/
theorem test_texel_coord_corners :
    Fl32.texelCoord 1#32 0x3F333333#32 = some 0#32 ∧ Fl32.texelCoord 5#32 0x3EC00000#32 = some 2#32 ∧
      Fl32.texelCoord 16#32 0x3DCCCCCD#32 = some 2#32 ∧ Fl32.texelCoord 0#32 0x3F000000#32 = some 0#32 ∧
      Fl32.texelCoord 8#32 0x7FC00000#32 = none ∧ Fl32.texelCoord 8#32 0x7F800000#32 = none ∧
      Fl32.texelCoord 8#32 0xFF800000#32 = none := by
  decide +kernel

/-- R366: fl32(c/255). -/
theorem test_unorm8 :
    [0#8, 255#8, 128#8, 149#8].map Fl32.unorm8 = [0#32, 0x3F800000#32, 0x3F008081#32, 0x3F159596#32] := by
  decide +kernel

/-! ### The requests -/

/-- T1: the block, in requester memory at address 0x20. -/
def blockT1 : State :=
  State.reset.storeBytes 0x20 (hexBytes 0x030000ffffff7f00f0ffffffffffff7f)

/-- T1, CMD 0x0C: signed HALF4, entries 0 and 15. -/
theorem test_decode_bc6h :
    memoryOf (exec (.decodeBc6h true .half4 0x20 ⟨0x1000, 16⟩) blockT1) 0x1000 8 =
        some ([.decoded .ok], [0x00, 0x00, 0xFF, 0xFB, 0x5D, 0x80, 0x00, 0x3C]) ∧
      memoryOf (exec (.decodeBc6h true .half4 0x20 ⟨0x1000, 16⟩) blockT1) 0x1078 8 =
        some ([.decoded .ok], [0x2B, 0x80, 0x0A, 0xC2, 0x31, 0x80, 0x00, 0x3C]) := by
  decide +kernel

/-- P1, request 4: the same bytes as BC7, mode 0; the output overlaps the block (R416). -/
theorem test_decode_bc7 :
    memoryOf (exec (.decodeBc7 0x20 ⟨0x20, 16⟩) blockT1) 0x20 4 = some ([.decoded .ok], [8, 255, 36, 255]) ∧
      memoryOf (exec (.decodeBc7 0x20 ⟨0x20, 16⟩) blockT1) 0x5C 4 = some ([.decoded .ok], [8, 255, 64, 255]) := by
  decide +kernel

/-- T9: the texture TexA, a BC7 surface of the vectors T7.0 to T7.3. -/
def texA : TextureView :=
  { format := 98, isEmpty := false, extents := [(0, ⟨8, 8, 1⟩)],
    surfaces := [(⟨0, 0, 0, 0⟩, hexBytes 0x4b1cc8f5fc9ad2d3cf0b8ab798c3ab98 ++
      hexBytes 0x42613f0ec1752d5bd421c4ab98c3ab98 ++ hexBytes 0xdc1eb7613efe6d82f0268699c846a3b1 ++
      hexBytes 0x68fa784980ed544150023b1466636363)] }

/-- T10: the texture TexB, BC6H_UF16. -/
def texB : TextureView :=
  { format := 95, isEmpty := false, extents := [(0, ⟨8, 4, 1⟩), (1, ⟨4, 2, 1⟩), (2, ⟨2, 1, 1⟩)],
    surfaces := [(⟨0, 0, 0, 0⟩, hexBytes 0x232d4035c6f8763e620ba54fe9832dc7 ++
      hexBytes 0x13000000000000000000000000000000),
      (⟨0, 0, 1, 0⟩, hexBytes 0x030000ffffff7f00f0ffffffffffff7f)] }

/-- Samplers 0 and 1, bound to TexA and TexB; sampler 2 to an empty texture. -/
def textured : State :=
  { State.reset with
    views := [(0, texA), (1, texB)], samplers := [(0, some 0), (1, some 1), (2, some 2)],
    formats := [(95, .bc6hUf16), (96, .bc6hSf16), (98, .bc7)] }

/-- T10: `load` of texel (5, 6, 0) of TexA, block offset 48, entry 9, and what it leaves in entries 0, 9 and 16. -/
theorem test_load :
    resultOf (exec (.load (some ⟨0, 16⟩) 0 ⟨5, 6, 0⟩ ⟨0, 0, 0⟩) textured) [9, 16] =
      some ([.sampled (.f32x4 0x3F129293 0x3E28A8A9 0x3EECECED 0x3F800000)],
        [.f32x4 0x3F129293 0x3E28A8A9 0x3EECECED 0x3F800000, .none]) := by
  decide +kernel

/-- T10: the reserved block of TexB is a real sample; an empty span gives the empty sample. -/
theorem test_load_bc6h :
    resultOf (exec (.load none 1 ⟨5, 2, 0⟩ ⟨0, 0, 0⟩) textured) [0] =
        some ([.sampled (.f32x4 0 0 0 0x3F800000)], [.none]) ∧
      resultOf (exec (.load (some ⟨0, 16⟩) 1 ⟨0, 0, 0⟩ ⟨0, 0, 2⟩) textured) [0] =
        some ([.sampled .none], [.none]) := by
  decide +kernel

/-- T9: uv (1.5, 0, 0) reaches texel (4, 0, 0) of TexA. -/
theorem test_sample :
    resultOf (exec (.sample none 0 ⟨0x3FC00000, 0, 0⟩ ⟨0, 0, 0⟩) textured) [0] =
      some ([.sampled (.f32x4 0x3F159596 0x3D808081 0x3ECCCCCD 0x3F800000)], [.none]) := by
  decide +kernel

/-- T11 (f): a negative uv whose texel is −1, and a NaN. -/
theorem test_sample_empty :
    resultOf (exec (.sample (some ⟨0, 16⟩) 0 ⟨0xBE4CCCCD, 0x3F000000, 0⟩ ⟨0, 0, 0⟩) textured) [0] =
        some ([.sampled .none], [.none]) ∧
      resultOf (exec (.sample (some ⟨0, 16⟩) 0 ⟨0x7FC00000, 0, 0⟩ ⟨0, 0, 0⟩) textured) [0] =
        some ([.sampled .none], [.none]) := by
  decide +kernel

/-- A load of TexA in progress on the scratch buffer at 0, and one of the texel (8, 0, 0) issued, on the buffer at b. -/
def failedLoad (b : Nat) : State :=
  { textured.begin (loadFront textured (some ⟨0, 16⟩) 0 ⟨5, 6, 0⟩ ⟨0, 0, 0⟩) with
    agenda := [.issue], queue := [⟨3, 0x02, { Operands.tableRecord with scratch := some ⟨b, 16⟩, coord := ⟨8, 0, 0⟩ }⟩] }

/-! ### T11: the empty sample -/

theorem test_load_empty_cases :
    [(⟨2, ⟨0, 0, 0⟩, ⟨0, 0, 0⟩⟩ : Nat × Vec3 × Selector), ⟨0, ⟨8, 0, 0⟩, ⟨0, 0, 0⟩⟩, ⟨0, ⟨0, -1, 0⟩, ⟨0, 0, 0⟩⟩,
      ⟨0, ⟨0, 0, 1⟩, ⟨0, 0, 0⟩⟩, ⟨0, ⟨0, 0, 0⟩, ⟨1, 0, 0⟩⟩, ⟨0, ⟨0, 0, 0⟩, ⟨0, 0, 5⟩⟩].map (fun c =>
        loadBlock textured (some ⟨0, 16⟩) c.1 c.2.1 c.2.2) = [none, none, none, none, none, none] := by
  decide +kernel

theorem test_load_capacity :
    loadBlock textured (some ⟨0, 15⟩) 0 ⟨0, 0, 0⟩ ⟨0, 0, 0⟩ = none ∧
      loadBlock textured (some ⟨0, 0⟩) 1 ⟨0, 0, 0⟩ ⟨0, 0, 0⟩ = none ∧
      (loadBlock textured (some ⟨0, 16⟩) 0 ⟨0, 0, 0⟩ ⟨0, 0, 0⟩).isSome = true := by
  decide +kernel

/-- R414, D26: a LOAD whose texel is out of range, issued while another uses its scratch buffer: both are marked, and it
returns a free sample; on a buffer of its own neither is marked, and it returns the empty sample and writes nothing. -/
theorem test_failed_check_shares :
    (nextOf (step (failedLoad 8))).map (fun t => t.active.map (·.raced)) = some [true, true] ∧
      (nextOf (step (failedLoad 16))).map (fun t => t.active.map (·.raced)) = some [false, false] ∧
      (nextOf (step (failedLoad 8))).map (fun t => t.active.all (·.ok)) = some true ∧
      ((nextOf (step (failedLoad 16))).bind fun t => resultOf (step t) [16]) = some ([.sampled .none], [.none]) := by
  decide +kernel

/-- R414 at N = 0 (R343): a buffer of no entries is still the buffer that another request names from the same start. -/
theorem test_empty_buffer_shares :
    ([(0, 0, 0, 0), (0, 0, 0, 16), (0, 16, 0, 0), (0, 16, 8, 16), (0, 16, 16, 16), (0, 16, 16, 0), (0, 16, 8, 0)].map
      fun (c : Nat × Nat × Nat × Nat) => sameBuffer c.1 c.2.1 c.2.2.1 c.2.2.2) =
      [true, true, true, true, false, false, true] ∧
    (nextOf (step { textured.begin (loadFront textured (some ⟨0, 0⟩) 0 ⟨5, 6, 0⟩ ⟨0, 0, 0⟩) with
        agenda := [.issue], queue := [⟨3, 0x02, { Operands.tableRecord with scratch := some ⟨0, 0⟩ }⟩] })).map
      (fun t => t.active.map (·.raced)) = some [true, true] := by
  decide +kernel

/-! ### T12: refused requests -/

/-- T12: the command bytes, with every buffer named. -/
theorem test_refused_commands :
    ([0x40#8, 0x80#8, 0x05#8, 0x09#8, 0x06#8, 0x1B#8, 0x20#8, 0x21#8].map fun c =>
      decodeRequest c Operands.tableRecord) =
      [.error .reservedCmdBits, .error .reservedCmdBits, .error .misplacedField, .error .misplacedField,
       .error .misplacedField, .error .misplacedField, .error .scrOnDecode, .error .scrOnDecode] := by
  decide +kernel

/-- T12: an output of 15 entries, and a `load` that names no scratch buffer. -/
theorem test_refused_buffers :
    decodeRequest 0x00#8 { Operands.tableRecord with out := ⟨0, 15⟩ } = .error .shortOutput ∧
      decodeRequest 0x01#8 { Operands.tableRecord with out := ⟨0, 15⟩ } = .error .shortOutput ∧
      decodeRequest 0x02#8 { Operands.tableRecord with scratch := none } = .error .noScratch ∧
      decodeRequest 0x03#8 { Operands.tableRecord with scratch := none } = .error .noScratch := by
  decide +kernel

/-- R159: the command bytes of the syntax's forms. -/
theorem test_request_words :
    [0x00#8, 0x0C#8, 0x18#8, 0x01#8, 0x02#8, 0x22#8, 0x03#8, 0x23#8].map (fun c =>
        (decodeRequest c Operands.tableRecord).toOption) =
      [some (.decodeBc6h false .half3 0 ⟨0, 16⟩), some (.decodeBc6h true .half4 0 ⟨0, 16⟩),
       some (.decodeBc6h false .float4 0 ⟨0, 16⟩), some (.decodeBc7 0 ⟨0, 16⟩),
       some (.load (some ⟨0, 16⟩) 0 ⟨0, 0, 0⟩ ⟨0, 0, 0⟩), some (.load none 0 ⟨0, 0, 0⟩ ⟨0, 0, 0⟩),
       some (.sample (some ⟨0, 16⟩) 0 ⟨0, 0, 0⟩ ⟨0, 0, 0⟩), some (.sample none 0 ⟨0, 0, 0⟩ ⟨0, 0, 0⟩)] := by
  decide +kernel

/-- R173: a captured block of 15 bytes would be read past its end. -/
theorem test_read_past_block :
    (match step { State.reset with active := [started .bc7 ((hexBytes 0).take 15)] } with
      | .fault .readPastBlock => true
      | _ => false) = true := by
  decide +kernel

/-! ### Well-formedness: one ill-formed term for each check, which the check refuses -/

theorem test_wf_accepts : fieldsM1.wf 0x00 = true ∧ fields7Mode0.wf 0 = true ∧ OutRef.wf ⟨0, 16⟩ = true := by
  decide +kernel

theorem test_wf_bc6h_endpoints :
    ({ fieldsM1 with w := ⟨1024, 0, 0⟩ } : Bc6hFields).wf 0x00 = false ∧
      ({ fieldsM1 with x := ⟨0, 32, 0⟩ } : Bc6hFields).wf 0x00 = false ∧
      ({ fieldsM1 with y := ⟨0, 0, 32⟩ } : Bc6hFields).wf 0x00 = false ∧
      ({ fieldsM1 with z := ⟨32, 0, 0⟩ } : Bc6hFields).wf 0x00 = false ∧
      ({ fieldsM11 with y := ⟨1, 0, 0⟩ } : Bc6hFields).wf 0x03 = false := by
  decide +kernel

theorem test_wf_bc6h_shape_indices :
    ({ fieldsM1 with d := 32 } : Bc6hFields).wf 0x00 = false ∧
      ({ fieldsM11 with d := 1 } : Bc6hFields).wf 0x03 = false ∧
      ({ fieldsM1 with idx := 4 :: fieldsM1.idx.drop 1 } : Bc6hFields).wf 0x00 = false ∧
      ({ fieldsM1 with idx := fieldsM1.idx.drop 1 } : Bc6hFields).wf 0x00 = false ∧
      fieldsM1.wf 0x13 = false := by
  decide +kernel

theorem test_wf_bc7_fields :
    ({ fields7Mode0 with shape := 16 } : Bc7Fields).wf 0 = false ∧
      ({ fields7Mode0 with rot := 1 } : Bc7Fields).wf 0 = false ∧
      ({ fields7Mode5 with imode := 1 } : Bc7Fields).wf 5 = false ∧
      ({ fields7Mode0 with ends := fields7Mode0.ends.drop 1 } : Bc7Fields).wf 0 = false ∧
      ({ fields7Mode6 with ends := [⟨128, 0, 0, 0⟩, ⟨0, 0, 0, 0⟩] } : Bc7Fields).wf 6 = false ∧
      ({ fields7Mode6 with pbits := [2, 0] } : Bc7Fields).wf 6 = false ∧ fields7Mode0.wf 8 = false := by
  decide +kernel

theorem test_wf_bc7_indices :
    ({ fields7Mode6 with w1 := 8 :: fields7Mode6.w1.drop 1 } : Bc7Fields).wf 6 = false ∧
      ({ fields7Mode4 with w2 := 4 :: fields7Mode4.w2.drop 1 } : Bc7Fields).wf 4 = false ∧
      ({ fields7Mode6 with w2 := [0] } : Bc7Fields).wf 6 = false := by
  decide +kernel

theorem test_wf_short_output :
    (Instr.decodeBc7 0 ⟨0, 15⟩).wf = false ∧ (Instr.decodeBc6h true .half3 0 ⟨0, 15⟩).wf = false := by
  decide +kernel

theorem test_memory_wf :
    Memory.wf [(3, 1), (3, 2)] = false ∧ Memory.wf [(3, 0)] = false ∧ Memory.wf [(3, 1), (5, 2)] = true := by
  decide +kernel

/-! ### Witnesses: for every statement with hypotheses, a state and operands that meet all of them together -/

/-- The mode instructions of the vectors, one for each constructor. -/
def modeInstrs : List Instr :=
  [.bc6hM1 true .half3 fieldsM1, .bc6hM2 false .half4 fieldsM2, .bc6hM3 true .float3 fieldsM3,
   .bc6hM4 false .float4 fieldsM4, .bc6hM5 true .half3 fieldsM5, .bc6hM6 false .half4 fieldsM6,
   .bc6hM7 true .float3 fieldsM7] ++
  [.bc6hM8 false .float4 fieldsM8, .bc6hM9 true .half3 fieldsM9, .bc6hM10 false .half4 fieldsM10,
   .bc6hM11 true .float3 fieldsM11, .bc6hM12 false .float4 fieldsM12, .bc6hM13 true .half3 fieldsM13,
   .bc6hM14 false .half4 fieldsM14] ++
  [.bc7Mode0 fields7Mode0, .bc7Mode1 fields7Mode1, .bc7Mode2 fields7Mode2, .bc7Mode3 fields7Mode3,
   .bc7Mode4 fields7Mode4, .bc7Mode5 fields7Mode5, .bc7Mode6 fields7Mode6, .bc7Mode7 fields7Mode7]

/-- Of DecodeEncode, Bc6hTwoRegionModes, Bc6hOneRegionModes and Bc7Modes: every mode has a well-formed instruction. -/
theorem witness_modes : modeInstrs.all Instr.wf = true ∧ modeInstrs.length = 22 := by
  decide +kernel

/-- Of the block instructions' statements: an operation is in progress. -/
theorem witness_running : (running .bc7).active = started .bc7 (hexBytes 0) :: [] := rfl

/-- Of EncodeDecodeRequest, FetchedWordRuns: command bytes and table words that decode, one of each space. -/
theorem witness_decodes :
    (decodeRequest 0x1C#8 Operands.tableRecord).toOption = some (.decodeBc6h true .float4 0 ⟨0, 16⟩) ∧
      (decodeTableWord 8 0x01).isSome = true ∧ tableSpace 8 0x01 = .request ∧
      (decodeTableWord 8 0x80).isSome = true ∧ tableSpace 8 0x80 = .bc7 ∧
      (decodeTableWord 11 0x00).isSome = true ∧ tableSpace 11 0x00 = .bc6h false .half4 := by
  decide +kernel

/-- Of Bc6hModeCode and Bc7UnaryMode: each clause, at its ends. -/
theorem witness_prefixes :
    (0#128).toNat % 4 = 0 ∧ (1#128).toNat % 4 = 1 ∧ (2#128).toNat % 4 = 2 ∧ (0x1F#128).toNat % 4 = 3 ∧
      bc7ModeRead 1 = 0 ∧ bc7ModeRead 0x80 = 7 ∧ bc7ModeRead 0x100 = 8 := by
  decide +kernel

/-- Of InterpLaws, SignExtension and InverseTransform. -/
theorem witness_interp_sext :
    (0 ≤ 64 ∧ 64 ≤ 64 ∧ (-5 : Int) ≤ 7) ∧ (1 ≤ 1 ∧ (0 : Int) < 2 ^ (1 - 1)) ∧
      ((0 : Int) ≤ 2 ^ 15 - 1 ∧ (2 ^ 15 - 1 : Int) < 2 ^ (16 - 1)) := by
  decide +kernel

/-- Of UnquantizeUnsigned: p at both ends, with both ends of c. -/
theorem witness_unquantizeU :
    (1 ≤ 1 ∧ 1 ≤ 16 ∧ 0 ≤ 1 ∧ 1 ≤ 2 ^ 1 - 1) ∧ (1 ≤ 16 ∧ 16 ≤ 16 ∧ 0 ≤ 65535 ∧ 65535 ≤ 2 ^ 16 - 1) ∧
      (1 ≤ 10 ∧ 10 ≤ 16 ∧ 1 ≤ 1022 ∧ 1022 ≤ 2 ^ 10 - 1) := by
  decide +kernel

/-- Of UnquantizeSigned: p at both ends, with both ends of c. -/
theorem witness_unquantizeS :
    (-(2 ^ (2 - 1)) ≤ (-2 : Int) ∧ (-2 : Int) ≤ 1 ∧ (1 : Int) ≤ 2 ^ (2 - 1) - 1) ∧
      (-(2 ^ (16 - 1)) ≤ (-32768 : Int) ∧ (-32768 : Int) ≤ 32767 ∧ (32767 : Int) ≤ 2 ^ (16 - 1) - 1) ∧
      (-(2 ^ (10 - 1)) < (-511 : Int) ∧ (-511 : Int) ≤ 510 ∧ (510 : Int) ≤ 2 ^ (10 - 1) - 1) := by
  decide +kernel

/-- Of FinishToHalf: the ends of both ranges, and the values beside zero. -/
theorem witness_finish :
    (Color.toHalf false (Color.finish false 0xFFFF)).toNat = 0x7BFF ∧
      (Color.toHalf false (Color.finish false 0)).toNat = 0 ∧
      (Color.toHalf true (Color.finish true (-32768))).toNat = 0xFC00 ∧
      (Color.toHalf true (Color.finish true (-1))).toNat = 0 ∧
      (Color.toHalf true (Color.finish true (-2))).toNat = 0x8001 ∧
      (Color.toHalf true (Color.finish true 32767)).toNat = 0x7BFF := by
  decide +kernel

/-- Of Bc6hMonotone: M14 unsigned and signed at the ends of the range, and M11. -/
theorem witness_monotone :
    ((0 : Int) ≤ 65535 ∧ (65535 : Int) < 2 ^ 16) ∧ (-(2 ^ (16 - 1)) ≤ (-32768 : Int) ∧ (32767 : Int) < 2 ^ (16 - 1)) ∧
      ((100 : Int) ≤ 900 ∧ (900 : Int) < 2 ^ 10 ∧ 0 ≤ 15 ∧ 15 < 16) := by
  decide +kernel

/-- Of DecodersReturnOk, LayoutIndependence, Bc7OpaqueModes and BlockFrame: the instruction decoded from a block runs
to a next state. -/
theorem witness_blocks_run :
    (decodeBc6hBlock true .float3 (hexBlock 0x030000ffffff7f00f0ffffffffffff7f)).toOption.map (fun i =>
        (isRequest i, (nextOf (exec i (running (.bc6h true .float3)))).isSome)) = some (false, true) ∧
      (Instr.bc7Mode3 fields7Mode3).wf = true ∧
      (nextOf (exec (.bc7Mode3 fields7Mode3) (running .bc7))).isSome = true ∧
      (nextOf (exec (.bc6hReserved13 false .half3 0) (running (.bc6h false .half3)))).isSome = true := by
  decide +kernel

/-- Of DecodeBc6hCompletes and DecodeBc7Completes; the output over the block itself is met too. -/
theorem witness_decode :
    16 ≤ (⟨0x20, 16⟩ : OutRef).entries ∧ blockT1.active = [] ∧ Memory.wf blockT1.mem = true := by
  decide +kernel

/-- Of GetBitsValue: the last byte of the block, and nothing at its end. -/
theorem witness_getBits : (8 ≤ 8 ∧ 120 + 8 ≤ 128) ∧ (0 ≤ 8 ∧ 128 + 0 ≤ 128) := by decide

/-- Of LoadEmptyCases and SampleDelegates: a buffer that no operation in progress uses, with none in progress and with
one on the buffer beside it. -/
theorem witness_unshared :
    textured.active = [] ∧ (failedLoad 16).active.length = 1 ∧
      (failedLoad 16).active.all (fun a => match a.client with
        | .sampler (some r) _ _ => !sameBuffer 16 16 r.base r.cap
        | _ => true) = true := by
  decide +kernel

/-- Of LoadEmptyCases: each of the four cases, the range case at x = w and at y = −1. -/
theorem witness_load_empty :
    (textured.samplerView 2).isEmpty = true ∧ scratchCap (some ⟨0, 15⟩) < 16 ∧
      ¬ (8#32).toInt < ((texA.extent 0).w.toNat : Int) ∧ ¬ 0 ≤ (-1#32 : Word32).toInt ∧
      (texB.surface ⟨0, 0, 2, 0⟩).length < 16 * (0 / 4 * ((2 + 4 - 1) / 4) + 0 / 4) + 16 := by
  decide +kernel

/-- Of SampleDelegates: a NaN has no finite wrapped component, so it converts to no texel; the component 1.5 of extent 8
converts to 4 by R346's formula (0.5, 7.0, 3.5, 4.0), and 0 of extents 8 and 1 to 0. -/
theorem witness_sample_converts :
    Fl32.wrap (Fl32.ofBits 0x7FC00000#32) = .nan ∧
      ((texA.extent 0).w = 8#32 ∧ Fl32.wrap (Fl32.ofBits 0x3FC00000#32) = .finite (2 ^ 148) ∧
        Fl32.fl32 (((8#32 : Word32).toNat : Int) - 1) 1 = .finite (7 * 2 ^ 149) ∧
        Fl32.fl32 (7 * 2 ^ 149 * 2 ^ 148) (2 ^ 149 * 2 ^ 149) = .finite (7 * 2 ^ 148) ∧
        Fl32.fl32 (7 * 2 ^ 148 + 2 ^ 148) (2 ^ 149) = .finite (2 ^ 151) ∧
        (4#32 : Word32).toInt = 2 ^ 151 / 2 ^ 149) ∧
      Fl32.texelCoord (texA.extent 0).h 0#32 = some 0#32 ∧ Fl32.texelCoord (texA.extent 0).d 0#32 = some 0#32 := by
  decide +kernel

/-- Of LoadSampleComplete: TexA and TexB, the last block of a span and a capacity of exactly 16. -/
theorem witness_load :
    textured.active = [] ∧ Scratch.wf textured.scratch = true ∧ (textured.samplerView 0).isEmpty = false ∧
      textured.kindOf (textured.samplerView 0).format = .bc7 ∧
      textured.kindOf (textured.samplerView 1).format = .bc6hUf16 ∧ 16 ≤ scratchCap (some ⟨0, 16⟩) ∧
      16 ≤ scratchCap none ∧ texelInRange ⟨7, 7, 0⟩ (texA.extent 0) = true ∧
      16 * (7 / 4 * ((8 + 3) / 4) + 7 / 4) + 16 ≤ (texA.surface ⟨0, 0, 0, 0⟩).length := by
  decide +kernel

/-- A texture of an unlisted format, whose one surface is as long as `OtherDecoder`'s block. -/
def texOther : TextureView :=
  { format := 7, isEmpty := false, extents := [(0, ⟨1, 1, 1⟩)],
    surfaces := [(⟨0, 0, 0, 0⟩, List.replicate (Config.otherBlock 7).bytes 0)] }

/-- Of LoadOtherFormat: the texel (0, 0, 0), its scratch buffer of exactly the block's texels. -/
theorem witness_load_other :
    ({ State.reset with views := [(0, texOther)], samplers := [(0, some 0)] } : State).kindOf
        (State.samplerView { State.reset with views := [(0, texOther)], samplers := [(0, some 0)] } 0).format = .other ∧
      (let bw := max 1 (Config.otherBlock 7).bw
       let bh := max 1 (Config.otherBlock 7).bh
       bw * bh ≤ scratchCap (some ⟨0, bw * bh⟩)) ∧
      texelInRange ⟨0, 0, 0⟩ (texOther.extent 0) = true ∧
      (Config.otherBlock 7).bytes * 0 + (Config.otherBlock 7).bytes ≤ (texOther.surface ⟨0, 0, 0, 0⟩).length := by
  refine ⟨rfl, ?_, by decide +kernel, ?_⟩
  · exact Nat.le_refl _
  · have h : texOther.surface ⟨0, 0, 0, 0⟩ = List.replicate (Config.otherBlock 7).bytes 0 := rfl
    rw [h, List.length_replicate]
    omega

/-- Of InternalBufferForm and LoadDeterministic: 144 entries, more than 144, and the capacity check on either side. -/
theorem witness_buffers :
    textured.active = [] ∧ (⟨0, 144⟩ : ScratchRef).cap = 144 ∧ 144 ≤ (⟨0, 200⟩ : ScratchRef).cap ∧
      (geometry (textured.kindOf (textured.samplerView 0).format) 98).count ≤ 144 ∧
      (16 ≤ scratchCap (some ⟨0, 16⟩) ↔ 16 ≤ scratchCap none) ∧
      (16 ≤ scratchCap (some ⟨0, 15⟩) ↔ 16 ≤ scratchCap (some ⟨9, 0⟩)) := by
  decide +kernel

/-- One request waiting. -/
def requesting (cmd : Byte) (o : Operands) : State :=
  { textured with queue := [⟨3, cmd, o⟩] }

/-- Of RefusedRequests, each of the five cases: the step leaves the queue empty and returns nothing. -/
theorem witness_refused :
    [(0x40#8, Operands.tableRecord), (0x09#8, Operands.tableRecord), (0x20#8, Operands.tableRecord),
      (0x00#8, { Operands.tableRecord with out := ⟨0, 15⟩ }),
      (0x02#8, { Operands.tableRecord with scratch := none })].map (fun c =>
        (nextOf (step (requesting c.1 c.2))).map fun t => (t.queue.length, t.results.length, t.issuer)) =
      [some (0, 0, 0), some (0, 0, 0), some (0, 0, 0), some (0, 0, 0), some (0, 0, 0)] := by
  decide +kernel

/-- Of StepRunsDecoded: a running activation, a finished one, a waiting request, and an idle unit. -/
theorem witness_step :
    (running .bc7).agenda = [] ∧ (started .bc7 (hexBytes 0)).phase = .decoding ∧ Fmt.bc7.space = some .bc7 ∧
      (decodeBytes .bc7 Operands.zero (hexBytes 0)).toOption.isSome = true ∧
      (nextOf (step (running .bc7))).map (fun t => t.active.map (·.phase)) = some [.returning] ∧
      (Fmt.other 7).space = none ∧
      (nextOf (step { State.reset with active := [{ started (.other 7) [] with client := .sampler none 1 (some 0) }] })).map
        (fun t => t.active.map (·.phase)) = some [.returning] ∧
      (requesting 0x02 Operands.tableRecord).active = [] ∧ (requesting 0x02 Operands.tableRecord).agenda = [] ∧
      (decodeRequest 0x02 Operands.tableRecord).toOption.isSome = true ∧ State.reset.queue = [] := by
  decide +kernel

/-- Of ActivationStart, one of each operation: the request decodes, and its activation begins; and of RefusedRequests, a
refused one issued. -/
theorem witness_issue :
    ([0x00#8, 0x01#8, 0x02#8, 0x03#8].all fun c => (decodeRequest c Operands.tableRecord).toOption.isSome) = true ∧
      ([0x00#8, 0x01#8, 0x02#8, 0x03#8, 0x40#8].map fun c =>
        (nextOf (step { requesting c Operands.tableRecord with agenda := [.issue] })).map fun t =>
          (t.active.length, t.queue.length)) =
        [some (1, 0), some (1, 0), some (1, 0), some (1, 0), some (0, 0)] := by
  decide +kernel

/-- Of DecodeFrame and LoadSampleFrame, of StepwiseIsAtomic: requests that complete. -/
theorem witness_frames :
    (nextOf (exec (.decodeBc6h true .half4 0x20 ⟨0x1000, 16⟩) blockT1)).isSome = true ∧
      (nextOf (exec (.decodeBc7 0x20 ⟨0x20, 16⟩) blockT1)).isSome = true ∧
      (nextOf (exec (.load (some ⟨0, 16⟩) 0 ⟨5, 6, 0⟩ ⟨0, 0, 0⟩) textured)).isSome = true ∧
      (nextOf (exec (.sample none 0 ⟨0x3FC00000, 0, 0⟩ ⟨0, 0, 0⟩) textured)).isSome = true ∧
      (requesting 0x02 Operands.tableRecord).agenda = [] ∧ (requesting 0x02 Operands.tableRecord).active = [] := by
  decide +kernel

/-- Of TexturesReadOnly and BindingFixed: a bound sampler, and a step that creates another. -/
theorem witness_bound :
    textured.binding 0 = some 0 ∧
      (nextOf (step { textured with agenda := [.createSampler 0 5] })).map (·.binding 0) = some (some 0) ∧
      (nextOf (step { textured with agenda := [.createSampler 7 5] })).map (·.binding 7) = some (some 5) := by
  decide +kernel

/-- Of RacedResultsFree: a raced DECODE about to write bytes 0x1000 to 0x103F, and a block captured from 0x1030 that is
still being read; its byte 3 is the one read at 0x1033. -/
theorem witness_raced_reader :
    (let a : Activation := { started .bc7 (hexBytes 0) with raced := true, phase := .returning }
     let b : Activation := { started .bc7 (hexBytes 0) with src := .mem 0x1030, client := .decode ⟨0x2000, 16⟩ }
     ({ blockT1 with active := [a, b] } : State).agenda = [] ∧ a.client = .decode ⟨0x1000, 16⟩ ∧ a.fmt.outBytes = 64 ∧
       Memory.wf blockT1.mem = true ∧ b.memByte 0x102F = none ∧ b.memByte 0x1033 = some 3) := by
  decide +kernel

/-- Two loads of TexA in progress, on the scratch buffers at 0 and at b. -/
def twoLoads (b : Nat) : State :=
  (textured.begin (loadFront textured (some ⟨0, 16⟩) 0 ⟨5, 6, 0⟩ ⟨0, 0, 0⟩)).begin
    (loadFront textured (some ⟨b, 16⟩) 0 ⟨0, 0, 0⟩ ⟨0, 0, 0⟩)

/-- Of StepKeepsInvariant, StepAlwaysCompletes, StepKeepsRanges and StepMarksSharers: with two operations in progress,
on distinct buffers and on a shared one. -/
theorem witness_invariants :
    (twoLoads 16).Inv ∧ (twoLoads 16).RegsInRange ∧ (twoLoads 16).SharersRaced ∧ (twoLoads 16).HazardFree ∧
      (twoLoads 8).Inv ∧ (twoLoads 8).SharersRaced ∧ ¬ (twoLoads 8).HazardFree ∧
      (nextOf (step (twoLoads 8))).isSome = true := by
  unfold State.Inv State.RegsInRange State.SharersRaced State.HazardFree
  decide +kernel

/-- Of OperationsCommute: the two loads of P4, on buffers side by side, and two decodes with outputs side by side. -/
theorem witness_commute :
    ((twoLoads 16).active.all fun a => a.ok && !a.raced && decide (a.phase = .decoding)) = true ∧
      (twoLoads 16).active.length = 2 ∧
      (match (twoLoads 16).active with | [a, b] => a.shares b | _ => true) = false ∧
      (let a : Activation := { started .bc7 (hexBytes 0) with client := .decode ⟨0x1000, 16⟩, src := .mem 0xFF0 }
       let b : Activation := { started .bc7 (hexBytes 0) with client := .decode ⟨0x1040, 16⟩, src := .mem 0x1080 }
       a.ok && b.ok && !a.shares b && (List.range 64).all (fun k =>
         decide (b.memByte (0x1000 + k) = none) && decide (a.memByte (0x1040 + k) = none))) = true := by
  decide +kernel

/-- Of RacedResultsFree: a raced LOAD and a raced DECODE about to return, and a raced LOAD that failed a check. -/
theorem witness_raced :
    (let a : Activation := { started .bc7 (hexBytes 0) with raced := true, phase := .returning }
     ({ blockT1 with active := [a] } : State).agenda = [] ∧ a.client = .decode ⟨0x1000, 16⟩ ∧
       Memory.wf blockT1.mem = true) ∧
      ((twoLoads 8).active.all fun a => a.raced) = true ∧
      (nextOf (step (failedLoad 8))).map (fun t => t.active.map fun a => (a.phase, a.raced)) =
        some [(.returning, true), (.decoding, true)] ∧ Scratch.wf (twoLoads 8).scratch = true := by
  decide +kernel

/-- Of TornBytes: byte 3 of a captured block written in requester memory, and byte 2 of one written in a surface. -/
theorem witness_torn :
    Memory.wf (running .bc7).mem = true ∧ (started .bc7 (hexBytes 0)).memByte 3 = some 3 ∧
      (nextOf (step { running .bc7 with agenda := [.memWrite 3 9] })).map
        (fun t => (t.active.length, Memory.read t.mem 3, Memory.read t.mem 4)) = some (1, 9, 0) ∧
      Sparse.wf TextureView.absent (twoLoads 16).views = true ∧
      (nextOf (step { twoLoads 16 with agenda := [.spanWrite 0 ⟨0, 0, 0, 0⟩ 2 9] })).map
        (fun t => (t.active.length, ((t.view 0).surface ⟨0, 0, 0, 0⟩)[2]?)) = some (2, some 9) := by
  decide +kernel

/-- Of RoundingNearestEven and WrapRule: a subnormal, 1.0, the value after it, 2.0, a tie below 1.0 + 2^-23 that rounds to
the even 1.0, one that rounds up to 1.0 + 2^-22, and the least value that rounds to infinity with the one before it. -/
theorem witness_floats :
    Fl32.ofBits 0x00000001#32 = .finite 1 ∧ Fl32.ofBits 0x3F800000#32 = .finite Fl32.one ∧
      Fl32.ofBits 0x3F800001#32 = .finite (Fl32.one + 2 ^ 126) ∧
      Fl32.ofBits 0x40000000#32 = .finite (2 * Fl32.one) ∧
      Fl32.wrap (Fl32.ofBits 0x40000000#32) = .finite 0 ∧
      Fl32.fl32 (2 ^ 24 + 1) (2 ^ 24) = .finite Fl32.one ∧
      Fl32.fl32 (2 ^ 24 + 3) (2 ^ 24) = .finite (Fl32.one + 2 ^ 127) ∧
      Fl32.fl32 (-(2 ^ 128 - 2 ^ 103)) 1 = .inf true ∧
      Fl32.fl32 (2 ^ 128 - 2 ^ 103 - 1) 1 = Fl32.ofBits 0x7F7FFFFF#32 := by
  decide +kernel

end Sys2Proof.Tests
end

/-! PROOFS. The binary32 rounding of R7: the values of the patterns are strictly increasing, `divEven` is the nearest integer,
and so `roundMag` is the nearest pattern. -/

namespace Sys2Proof.Machine.Fl32

open Sys2Proof.Spec

/-! ### The value of a pattern -/

theorem unitsOf_eq_f32Magnitude (b : Nat) : unitsOf b = f32Magnitude b := by
  simp [unitsOf, f32Magnitude, Nat.shiftRight_eq_div_pow, Nat.shiftLeft_eq, Nat.add_comm]

theorem ofBits_eq_f32Value (x : F32) : ofBits x = f32Value x := by
  have hm : x.toNat % 2 ^ 31 < 2 ^ 31 := Nat.mod_lt _ (by decide)
  simp only [ofBits, f32Value, unitsOf_eq_f32Magnitude]
  generalize x.toNat % 2 ^ 31 = m at hm
  by_cases hinf : m = 0x7F800000
  · simp [hinf]
  · by_cases hnan : 0x7F800000 < m
    · rw [if_neg hinf, if_pos hnan, if_pos (by omega), if_neg (by omega)]
    · rw [if_neg hinf, if_neg hnan, if_neg (show ¬ m / 2 ^ 23 = 255 by omega)]

/-- A finite value is the magnitude of a pattern below infinity. -/
theorem natAbs_of_f32Value_finite {x : F32} {n : Int} (h : f32Value x = .finite n) :
    ∃ b < 0x7F800000, n.natAbs = f32Magnitude b := by
  have hb : x.toNat % 2 ^ 31 < 2 ^ 31 := Nat.mod_lt _ (by decide)
  refine ⟨x.toNat % 2 ^ 31, ?_⟩
  simp only [f32Value] at h
  generalize x.toNat % 2 ^ 31 = b at h hb
  split at h
  · split at h <;> cases h
  · cases h
    refine ⟨by omega, ?_⟩
    split <;> simp

/-- The value of a pattern by its exponent and fraction. -/
theorem f32Magnitude_fields (e : Nat) {f : Nat} (hf : f < 2 ^ 23) :
    f32Magnitude (e * 2 ^ 23 + f) = if e = 0 then f else (2 ^ 23 + f) * 2 ^ (e - 1) := by
  have hdiv : (e * 2 ^ 23 + f) / 2 ^ 23 = e := by omega
  have hmod : (e * 2 ^ 23 + f) % 2 ^ 23 = f := by omega
  rw [f32Magnitude, hdiv, hmod]

/-- The step from a pattern's value to the next one's: one unit in the last place, which a subnormal shares with exponent 1. -/
theorem f32Magnitude_succ (b : Nat) : f32Magnitude (b + 1) = f32Magnitude b + 2 ^ (b / 2 ^ 23 - 1) := by
  have hf : b % 2 ^ 23 < 2 ^ 23 := Nat.mod_lt _ (by decide)
  have hb := Nat.div_add_mod' b (2 ^ 23)
  generalize b / 2 ^ 23 = e at *
  generalize b % 2 ^ 23 = f at *
  subst hb
  rw [f32Magnitude_fields e hf]
  by_cases hlast : f + 1 < 2 ^ 23
  · rw [Nat.add_assoc, f32Magnitude_fields e hlast]
    cases e with
    | zero => rfl
    | succ e => simp only [Nat.succ_ne_zero, if_false]; ring
  · obtain rfl : f = 2 ^ 23 - 1 := by omega
    rw [show e * 2 ^ 23 + (2 ^ 23 - 1) + 1 = (e + 1) * 2 ^ 23 + 0 by ring, f32Magnitude_fields (e + 1) (by decide)]
    cases e with
    | zero => rfl
    | succ e => simp only [Nat.succ_ne_zero, if_false, Nat.add_sub_cancel]; ring

theorem f32Magnitude_strictMono : StrictMono f32Magnitude :=
  strictMono_nat_of_lt_succ fun b => by rw [f32Magnitude_succ]; have := Nat.two_pow_pos (b / 2 ^ 23 - 1); omega

/-- The value of the pattern that is put together from a shift and a significand, a carry out of it included. -/
theorem f32Magnitude_shift_add {sh q : Nat} (hq : q ≤ 2 ^ 24) (hn : sh = 0 ∨ 2 ^ 23 ≤ q) :
    f32Magnitude (sh * 2 ^ 23 + q) = q * 2 ^ sh := by
  by_cases hsub : q < 2 ^ 23
  · obtain rfl : sh = 0 := by omega
    rw [f32Magnitude_fields 0 hsub, if_pos rfl, pow_zero, Nat.mul_one]
  · by_cases hcarry : q = 2 ^ 24
    · rw [hcarry, show sh * 2 ^ 23 + 2 ^ 24 = (sh + 2) * 2 ^ 23 + 0 by ring, f32Magnitude_fields _ (by decide),
        if_neg (by omega), show sh + 2 - 1 = sh + 1 by omega]
      ring
    · rw [show sh * 2 ^ 23 + q = (sh + 1) * 2 ^ 23 + (q - 2 ^ 23) by omega, f32Magnitude_fields _ (by omega),
        if_neg (by omega), show 2 ^ 23 + (q - 2 ^ 23) = q by omega, Nat.add_sub_cancel]

/-! ### The nearest pattern -/

/-- How far pattern b is from num / den, in units of 2^-149 / den. -/
def quotErr (num den b : Nat) : Nat :=
  ((f32Magnitude b * den : Nat) - (num * 2 ^ 149 : Nat) : Int).natAbs

/-- Of the patterns up to lim, p is the nearest to num / den, on a tie the even one. -/
def NearestUpTo (lim num den p : Nat) : Prop :=
  ∀ b, b ≤ lim → b ≠ p →
    quotErr num den p ≤ quotErr num den b ∧ (quotErr num den p = quotErr num den b → p % 2 = 0)

section

variable {num den : Nat} (hden : 0 < den)
include hden

theorem scaled_lt_scaled {b c : Nat} (h : b < c) : f32Magnitude b * den < f32Magnitude c * den :=
  Nat.mul_lt_mul_of_pos_right (f32Magnitude_strictMono h) hden

/-- A pattern is nearest when the quotient lies within half the step to each of its neighbours. -/
theorem nearest_of_half_steps {p : Nat} (lim : Nat)
    (up : 2 * (num * 2 ^ 149) ≤ f32Magnitude p * den + f32Magnitude (p + 1) * den ∧
      (2 * (num * 2 ^ 149) = f32Magnitude p * den + f32Magnitude (p + 1) * den → p % 2 = 0))
    (down : ∀ c, p = c + 1 → f32Magnitude c * den + f32Magnitude p * den ≤ 2 * (num * 2 ^ 149) ∧
      (f32Magnitude c * den + f32Magnitude p * den = 2 * (num * 2 ^ 149) → p % 2 = 0)) :
    NearestUpTo lim num den p := by
  intro b _ hne
  unfold quotErr
  generalize num * 2 ^ 149 = n at *
  rcases Nat.lt_or_gt_of_ne hne with hlt | hgt
  · obtain ⟨c, rfl⟩ : ∃ c, p = c + 1 := ⟨p - 1, by omega⟩
    have hbelow : f32Magnitude b * den ≤ f32Magnitude c * den :=
      Nat.mul_le_mul_right _ (f32Magnitude_strictMono.monotone (by omega))
    have hstep := scaled_lt_scaled hden (show c < c + 1 by omega)
    obtain ⟨hle, htie⟩ := down c rfl
    omega
  · have habove : f32Magnitude (p + 1) * den ≤ f32Magnitude b * den :=
      Nat.mul_le_mul_right _ (f32Magnitude_strictMono.monotone hgt)
    have hstep := scaled_lt_scaled hden (show p < p + 1 by omega)
    obtain ⟨hle, htie⟩ := up
    omega

/-- Where the nearest of all patterns lies past an even limit, the limit is the nearest up to it. -/
theorem nearest_min {p lim : Nat} (heven : lim % 2 = 0) (h : ∀ l, NearestUpTo l num den p) :
    NearestUpTo lim num den (min p lim) := by
  by_cases hp : p ≤ lim
  · rw [Nat.min_eq_left hp]; exact h lim
  · rw [Nat.min_eq_right (by omega)]
    intro b hb hne
    have hlim := (h lim lim (Nat.le_refl _) (by omega)).1
    have hlow := scaled_lt_scaled hden (show b < lim by omega)
    have hhigh := scaled_lt_scaled hden (show lim < p by omega)
    unfold quotErr at hlim ⊢
    generalize num * 2 ^ 149 = n at *
    omega

/-! A nearest pattern stands on the same side of every other pattern as the quotient does. -/

theorem nearest_le_of_quot_le {p b lim : Nat} (h : NearestUpTo lim num den p) (hb : b ≤ lim)
    (hle : num * 2 ^ 149 ≤ f32Magnitude b * den) : p ≤ b := by
  by_contra hlt
  have herr := (h b hb (by omega)).1
  have hmono := scaled_lt_scaled hden (show b < p by omega)
  unfold quotErr at herr
  generalize num * 2 ^ 149 = n at *
  omega

theorem le_nearest_of_le_quot {p b lim : Nat} (h : NearestUpTo lim num den p) (hb : b ≤ lim)
    (hle : f32Magnitude b * den ≤ num * 2 ^ 149) : b ≤ p := by
  by_contra hlt
  have herr := (h b hb (by omega)).1
  have hmono := scaled_lt_scaled hden (show p < b by omega)
  unfold quotErr at herr
  generalize num * 2 ^ 149 = n at *
  omega

end

/-! ### The rounding -/

/-- `divEven` is the truncated quotient or the next integer, off by half the denominator at most, and even at half. -/
theorem divEven_spec {n d : Nat} (hd : 0 < d) :
    (divEven n d = n / d ∨ divEven n d = n / d + 1) ∧
      (2 * n ≤ 2 * (divEven n d * d) + d ∧ (2 * n = 2 * (divEven n d * d) + d → divEven n d % 2 = 0)) ∧
      (2 * (divEven n d * d) ≤ 2 * n + d ∧ (2 * (divEven n d * d) = 2 * n + d → divEven n d % 2 = 0)) := by
  have hdm := Nat.div_add_mod' n d
  have hr := Nat.mod_lt n hd
  unfold divEven
  generalize n / d = q at *
  generalize n % d = r at *
  have hsucc : (q + 1) * d = q * d + d := Nat.succ_mul q d
  dsimp only
  split
  · omega
  · omega

/-- The exponent `roundMag` gives to the rounding of a value whose integer part is `units`. -/
def shiftOf (units : Nat) : Nat :=
  if units < 2 ^ 24 then 0 else Nat.log2 units - 23

theorem roundMag_eq (num den : Nat) :
    roundMag num den =
      min (shiftOf (num * 2 ^ 149 / den) * 2 ^ 23 +
        divEven (num * 2 ^ 149) (den * 2 ^ shiftOf (num * 2 ^ 149 / den))) 0x7F800000 := by
  simp only [roundMag, shiftOf, Nat.shiftLeft_eq]

/-- The shift leaves a significand of 24 bits, of fewer only where there is no shift. -/
theorem div_shiftOf (units : Nat) :
    units / 2 ^ shiftOf units < 2 ^ 24 ∧ (shiftOf units = 0 ∨ 2 ^ 23 ≤ units / 2 ^ shiftOf units) := by
  unfold shiftOf
  split
  next h => simpa using h
  next h =>
    have hne : units ≠ 0 := by omega
    have hlog : 24 ≤ Nat.log2 units := (Nat.le_log2 hne).2 (by omega)
    have hlow : 2 ^ 23 * 2 ^ (Nat.log2 units - 23) ≤ units := by
      rw [← Nat.pow_add, Nat.add_sub_cancel' (by omega)]; exact Nat.log2_self_le hne
    have hhigh : units < 2 ^ 24 * 2 ^ (Nat.log2 units - 23) := by
      rw [← Nat.pow_add, show 24 + (Nat.log2 units - 23) = Nat.log2 units + 1 by omega]; exact Nat.lt_log2_self
    exact ⟨(Nat.div_lt_iff_lt_mul (Nat.two_pow_pos _)).2 hhigh,
      .inr ((Nat.le_div_iff_mul_le (Nat.two_pow_pos _)).2 hlow)⟩

/-- The nearest integer q of the quotient in units of 2^(sh − 149), put together with sh, is the nearest pattern. Below a
power of two the step is only half as long, but there the quotient is not below the power. -/
theorem nearest_shift_divEven {num den sh : Nat} (hden : 0 < den) (lim : Nat)
    (hhigh : num * 2 ^ 149 / den / 2 ^ sh < 2 ^ 24) (hlow : sh = 0 ∨ 2 ^ 23 ≤ num * 2 ^ 149 / den / 2 ^ sh) :
    NearestUpTo lim num den (sh * 2 ^ 23 + divEven (num * 2 ^ 149) (den * 2 ^ sh)) := by
  have hd : 0 < den * 2 ^ sh := Nat.mul_pos hden (Nat.two_pow_pos _)
  obtain ⟨hq, hup, hdown⟩ := divEven_spec (n := num * 2 ^ 149) hd
  have hfloor := Nat.div_mul_le_self (num * 2 ^ 149) (den * 2 ^ sh)
  rw [Nat.div_div_eq_div_mul] at hhigh hlow
  generalize divEven (num * 2 ^ 149) (den * 2 ^ sh) = q at *
  have hvalue : f32Magnitude (sh * 2 ^ 23 + q) * den = q * (den * 2 ^ sh) := by
    rw [f32Magnitude_shift_add (by omega) (by omega)]; ring
  refine nearest_of_half_steps hden lim ?_ fun c hc => ?_
  · have hstep : 2 ^ sh ≤ 2 ^ ((sh * 2 ^ 23 + q) / 2 ^ 23 - 1) := Nat.pow_le_pow_right (by decide) (by omega)
    have hscaled := Nat.mul_le_mul_left den hstep
    rw [f32Magnitude_succ, Nat.add_mul, hvalue, Nat.mul_comm _ den]
    omega
  · by_cases hpower : q = 2 ^ 23 ∧ sh ≠ 0
    · obtain ⟨rfl, hsh⟩ := hpower
      have hbelow := scaled_lt_scaled hden (show c < sh * 2 ^ 23 + 2 ^ 23 by omega)
      have habove := Nat.mul_le_mul_right (den * 2 ^ sh) (hlow.resolve_left hsh)
      omega
    · have hstep : c / 2 ^ 23 - 1 = sh := by omega
      have hsucc : f32Magnitude c * den + den * 2 ^ sh = q * (den * 2 ^ sh) := by
        rw [← hvalue, hc, f32Magnitude_succ, hstep]; ring
      omega

/-- `roundMag` is the binary32 nearest to the quotient, ties to even (R7). -/
theorem roundMag_nearest {num den : Nat} (hden : 0 < den) : NearestUpTo 0x7F800000 num den (roundMag num den) := by
  rw [roundMag_eq]
  obtain ⟨hhigh, hlow⟩ := div_shiftOf (num * 2 ^ 149 / den)
  exact nearest_min hden (by decide) fun lim => nearest_shift_divEven hden lim hhigh hlow

theorem roundMag_le (num den : Nat) : roundMag num den ≤ 0x7F800000 := by
  rw [roundMag_eq]; exact Nat.min_le_right _ _

/-- A quotient that is a pattern's value is rounded to the pattern. -/
theorem roundMag_exact {num den b : Nat} (hden : 0 < den) (hb : b ≤ 0x7F800000)
    (h : num * 2 ^ 149 = f32Magnitude b * den) : roundMag num den = b :=
  Nat.le_antisymm (nearest_le_of_quot_le hden (roundMag_nearest hden) hb h.le)
    (le_nearest_of_le_quot hden (roundMag_nearest hden) hb h.ge)

/-- `fl32` of a binary32 value is that value. -/
theorem fl32_of_f32Value {x : F32} {n : Int} (h : f32Value x = .finite n) : fl32 n (2 ^ 149) = .finite n := by
  obtain ⟨b, hb, hn⟩ := natAbs_of_f32Value_finite h
  have hround : roundMag n.natAbs (2 ^ 149) = b := roundMag_exact (by decide) hb.le (by rw [hn])
  rw [fl32, hround, if_neg hb.ne, unitsOf_eq_f32Magnitude, ← hn]
  split
  next hneg => rw [Int.ofNat_natAbs_of_nonpos (by omega), Int.neg_neg]
  next hpos => rw [Int.natAbs_of_nonneg (by omega)]

/-- Settles O54: `roundMag` is the nearest pattern, since `divEven` is the nearest integer in the steps of the quotient's
binade, and the carry out of a binade and the clamp at infinity keep it nearest. -/
theorem roundingNearestEven : Obligations.RoundingNearestEven := by
  refine ⟨ofBits_eq_f32Value, fun num den hden => ?_, fun x n => fl32_of_f32Value⟩
  refine ⟨roundMag num.natAbs den, roundMag_le _ _, ?_, roundMag_nearest hden⟩
  simp only [fl32, unitsOf_eq_f32Magnitude]

/-- The conversion of a channel is the rounding of c / 255 itself: a pattern fits 32 bits. -/
theorem unorm8_toNat {c : Nat} (hc : c < 256) : (unorm8 (BitVec.ofNat 8 c)).toNat = roundMag c 255 := by
  have hle := roundMag_le c 255
  rw [unorm8, BitVec.toNat_ofNat, BitVec.toNat_ofNat, Nat.mod_eq_of_lt hc, Nat.mod_eq_of_lt (by omega)]

/-- c / 255 is at most 1.0, and so is its rounding. -/
theorem roundMag_channel_le_one {c : Nat} (hc : c < 256) : roundMag c 255 ≤ 0x3F800000 := by
  have hone : f32Magnitude 0x3F800000 = 2 ^ 149 := by decide
  refine nearest_le_of_quot_le (by decide) (roundMag_nearest (by decide)) (by decide) ?_
  rw [hone]
  omega

/-- Settles O56: the rounding of c / 255 is at most 1.0, so its neighbours are patterns it is nearest against. -/
theorem unorm8Nearest : Obligations.Unorm8Nearest := by
  intro c hc
  have herr : ∀ b, ((unitsOf b : Int) * 255 - c * one).natAbs = quotErr c 255 b := fun b => by
    simp [quotErr, unitsOf_eq_f32Magnitude, one, Nat.shiftLeft_eq]
  have hnear := roundMag_nearest (num := c) (den := 255) (by decide)
  have hle := roundMag_channel_le_one hc
  simp only [herr, unorm8_toNat hc]
  generalize roundMag c 255 = x at *
  refine ⟨by omega, (hnear _ (by omega) (by omega)).1, ?_⟩
  by_cases hzero : x = 0
  · subst hzero; exact Nat.le_refl _
  · exact (hnear _ (by omega) (by omega)).1

end Sys2Proof.Machine.Fl32

/-! PROOFS. The constant tables (R38 to R43, R300). -/

namespace Sys2Proof.Rom

/-- R43 (5): no two rows of a partition table are equal. -/
theorem part_rows_nodup :
    ∀ pc, pc = 1 ∨ pc = 2 → ((List.range 64).map fun s => (List.range 16).map (part pc s)).Nodup := by
  rintro pc (rfl | rfl) <;> decide +kernel

/-- Settles O9: the tables are finite, and a row without a double determines its shape. -/
theorem partitionTables : Obligations.PartitionTables := by
  refine ⟨by decide +kernel, by decide +kernel, by decide +kernel, by decide +kernel, fun pc hpc s hs s' hs' heq => ?_⟩
  exact List.inj_on_of_nodup_map (part_rows_nodup pc hpc) (List.mem_range.mpr hs) (List.mem_range.mpr hs') heq

/-- Settles O10: the three tables by their entries. -/
theorem weightTables : Obligations.WeightTables := by
  rintro p (rfl | rfl | rfl) <;> decide

end Sys2Proof.Rom

/-! PROOFS. What the unit does, said once: the form of each block instruction, the front end of each request, and the moves that
a step is made of. Every rule about steps (safety, frames, invariants) follows from what the moves do. -/

namespace Sys2Proof.Machine

/-! ### The form of a block instruction -/

/-- A block instruction by its format: a BC6H code with `signed` and the layout, or a BC7 mode, and the block's fields (zeros for
a reserved one, whose fields are not read). -/
inductive BlockForm where
  | bc6h (code : Nat) (signed : Bool) (layout : Layout) (f : Bc6hFields)
  | bc7 (mode : Nat) (f : Bc7Fields)

/-- What a block of the form does to the working registers (R200, R260). -/
def BlockForm.run : BlockForm → WorkRegs → WorkRegs
  | .bc6h code signed layout f => Bc6h.run code signed layout f
  | .bc7 mode f => Bc7.run mode f

/-- The form of an instruction; a request has none. -/
def blockForm : Instr → Option BlockForm
  | .bc6hM1 signed layout f => some (.bc6h 0x00 signed layout f)
  | .bc6hM2 signed layout f => some (.bc6h 0x01 signed layout f)
  | .bc6hM3 signed layout f => some (.bc6h 0x02 signed layout f)
  | .bc6hM4 signed layout f => some (.bc6h 0x06 signed layout f)
  | .bc6hM5 signed layout f => some (.bc6h 0x0A signed layout f)
  | .bc6hM6 signed layout f => some (.bc6h 0x0E signed layout f)
  | .bc6hM7 signed layout f => some (.bc6h 0x12 signed layout f)
  | .bc6hM8 signed layout f => some (.bc6h 0x16 signed layout f)
  | .bc6hM9 signed layout f => some (.bc6h 0x1A signed layout f)
  | .bc6hM10 signed layout f => some (.bc6h 0x1E signed layout f)
  | .bc6hM11 signed layout f => some (.bc6h 0x03 signed layout f)
  | .bc6hM12 signed layout f => some (.bc6h 0x07 signed layout f)
  | .bc6hM13 signed layout f => some (.bc6h 0x0B signed layout f)
  | .bc6hM14 signed layout f => some (.bc6h 0x0F signed layout f)
  | .bc6hReserved13 signed layout _ => some (.bc6h 0x13 signed layout .zero)
  | .bc6hReserved17 signed layout _ => some (.bc6h 0x17 signed layout .zero)
  | .bc6hReserved1B signed layout _ => some (.bc6h 0x1B signed layout .zero)
  | .bc6hReserved1F signed layout _ => some (.bc6h 0x1F signed layout .zero)
  | .bc7Mode0 f => some (.bc7 0 f)
  | .bc7Mode1 f => some (.bc7 1 f)
  | .bc7Mode2 f => some (.bc7 2 f)
  | .bc7Mode3 f => some (.bc7 3 f)
  | .bc7Mode4 f => some (.bc7 4 f)
  | .bc7Mode5 f => some (.bc7 5 f)
  | .bc7Mode6 f => some (.bc7 6 f)
  | .bc7Mode7 f => some (.bc7 7 f)
  | .bc7Reserved _ => some (.bc7 8 ⟨0, 0, 0, [], [], [], []⟩)
  | .decodeBc6h .. | .decodeBc7 .. | .load .. | .sample .. => none

/-- A block instruction is the datapath with the registers its form gives. -/
theorem exec_of_blockForm {i : Instr} {b : BlockForm} (h : blockForm i = some b) (s : State) :
    exec i s = s.decodeInto b.run := by
  cases i <;> cases h <;> rfl

/-- Every instruction but the requests has a form. -/
theorem exists_blockForm {i : Instr} (h : isRequest i = false) : ∃ b, blockForm i = some b := by
  cases i with
  | decodeBc6h | decodeBc7 | load | sample => cases h
  | _ => exact ⟨_, rfl⟩

/-! ### The front end of a request -/

/-- The activation that a request begins with (R411); `none` for a DECODE with a short output buffer, and for a block's
instruction. -/
def frontEnd (s : State) : Instr → Option Activation
  | .decodeBc6h signed layout blk out => if out.wf then some (decodeFront s (.bc6h signed layout) blk out) else none
  | .decodeBc7 blk out => if out.wf then some (decodeFront s .bc7 blk out) else none
  | .load scratch smp texel sel => some (loadFront s scratch smp texel sel)
  | .sample scratch smp uv sel => some (sampleFront s scratch smp uv sel)
  | _ => none

/-- The event `issue` begins the front end's activation, if there is one. -/
theorem start_eq (s : State) (i : Instr) : s.start i = ((frontEnd s i).map s.begin).getD s := by
  cases i with
  | decodeBc6h signed layout blk out => by_cases hwf : out.wf = true <;> simp [State.start, frontEnd, hwf]
  | decodeBc7 blk out => by_cases hwf : out.wf = true <;> simp [State.start, frontEnd, hwf]
  | _ => rfl

/-- A request, run as one operation, operates the front end's activation, if there is one. -/
theorem exec_request {i : Instr} (h : isRequest i = true) (s : State) :
    exec i s = ((frontEnd s i).map s.operate).getD (.next s) := by
  cases i with
  | decodeBc6h signed layout blk out => by_cases hwf : out.wf = true <;> simp [exec, execDecodeBc6h, frontEnd, hwf]
  | decodeBc7 blk out => by_cases hwf : out.wf = true <;> simp [exec, execDecodeBc7, frontEnd, hwf]
  | load | sample => rfl
  | _ => cases h

/-- A request that decodes is well-formed: its output buffer has been checked (R157 (4)). -/
theorem wf_of_decodeRequest {cmd : Byte} {o : Operands} {i : Instr} (h : decodeRequest cmd o = .ok i) : i.wf = true := by
  have hout : ∀ {j : Instr}, j.wf = o.out.wf →
      (if cmd.getLsbD 5 then .error .scrOnDecode else if o.out.entries < 16 then .error .shortOutput else .ok j :
        Except Reject Instr) = .ok i → i.wf = true := by
    intro j hj hi
    split at hi
    · cases hi
    split at hi
    · cases hi
    next hlen => cases hi; simpa [hj, OutRef.wf] using hlen
  have hscr : ∀ (mk : Option ScratchRef → Instr), (∀ r, (mk r).wf = true) →
      (scratchOperand (cmd.getLsbD 5) o.scratch).map mk = .ok i → i.wf = true := by
    intro mk hmk hi
    cases hs : scratchOperand (cmd.getLsbD 5) o.scratch with
    | error r => rw [hs] at hi; cases hi
    | ok r => rw [hs] at hi; cases hi; exact hmk r
  unfold decodeRequest at h
  dsimp only at h
  split at h
  · cases h
  split at h
  · cases h
  split at h
  · exact hout rfl h
  · exact hout rfl h
  · exact hscr _ (fun _ => rfl) h
  · exact hscr _ (fun _ => rfl) h

/-- A request that decodes has an activation to begin (R411). -/
theorem frontEnd_of_decodeRequest {cmd : Byte} {o : Operands} {i : Instr} (h : decodeRequest cmd o = .ok i) (s : State) :
    ∃ a, frontEnd s i = some a := by
  have hwf := wf_of_decodeRequest h
  have hreq := isRequest_decodeRequest cmd o i h
  cases i with
  | decodeBc6h signed layout blk out => exact ⟨_, if_pos hwf⟩
  | decodeBc7 blk out => exact ⟨_, if_pos hwf⟩
  | load | sample => exact ⟨_, rfl⟩
  | _ => cases hreq

/-- SAMPLE's front end is LOAD's of some texel, or that of a failed check. -/
theorem sampleFront_cases (s : State) (scr : Option ScratchRef) (smp : Nat) (uv : Vec3) (sel : Selector) :
    sampleFront s scr smp uv sel = s.emptyActivation scr smp ∨
      ∃ texel, sampleFront s scr smp uv sel = loadFront s scr smp texel sel := by
  unfold sampleFront
  split
  · exact .inl rfl
  · exact .inr ⟨_, rfl⟩

/-- The front ends by what they begin: a DECODE's activation, that of a failed check, or that of a block LOAD has read. -/
theorem frontEnd_cases {s : State} {i : Instr} {a : Activation} (h : frontEnd s i = some a) :
    (∃ fmt blk out, fmt.space.isSome = true ∧ out.wf = true ∧ a = decodeFront s fmt blk out) ∨
      (∃ scr smp, a = s.emptyActivation scr smp) ∨
      ∃ scr smp texel sel, loadBlock s scr smp texel sel = some a := by
  have hload : ∀ scr smp texel sel, loadFront s scr smp texel sel = a →
      (∃ scr smp, a = s.emptyActivation scr smp) ∨ ∃ scr smp texel sel, loadBlock s scr smp texel sel = some a := by
    rintro scr smp texel sel rfl
    rcases loadFront_cases s scr smp texel sel with ⟨-, he⟩ | ⟨b, hb, he⟩
    · exact .inl ⟨scr, smp, he⟩
    · exact .inr ⟨scr, smp, texel, sel, he ▸ hb⟩
  cases i with
  | decodeBc6h signed layout blk out =>
    obtain ⟨hwf, ha⟩ : out.wf = true ∧ decodeFront s (.bc6h signed layout) blk out = a := by simpa [frontEnd] using h
    exact .inl ⟨_, blk, out, rfl, hwf, ha.symm⟩
  | decodeBc7 blk out =>
    obtain ⟨hwf, ha⟩ : out.wf = true ∧ decodeFront s .bc7 blk out = a := by simpa [frontEnd] using h
    exact .inl ⟨_, blk, out, rfl, hwf, ha.symm⟩
  | load scr smp texel sel => exact .inr (hload scr smp texel sel (by simpa [frontEnd] using h))
  | sample scr smp uv sel =>
    have ha : sampleFront s scr smp uv sel = a := by simpa [frontEnd] using h
    rcases sampleFront_cases s scr smp uv sel with he | ⟨texel, he⟩
    · exact .inr (.inl ⟨scr, smp, ha ▸ he⟩)
    · exact .inr (hload scr smp texel sel (he ▸ ha))
  | _ => cases h

/-! ### What an activation decodes to -/

/-- The working registers an activation can have after its decoder: those of its block's instruction, or `OtherDecoder`'s. -/
inductive Activation.Decodes (a : Activation) : WorkRegs → Prop
  | block {sp : Space} {i : Instr} {b : BlockForm} (hsp : a.fmt.space = some sp)
      (hdec : decodeBytes sp Operands.zero a.bytes = .ok i) (hform : blockForm i = some b) : a.Decodes (b.run a.regs)
  | other {format : Nat} (hfmt : a.fmt = .other format) : a.Decodes (runOther format a.bytes a.regs)

/-- Bytes that decode in BC6H's space are at least a block, and decode as that block does. -/
theorem decodeBc6hBlock_of_decodeBytes {signed : Bool} {layout : Layout} {o : Operands} {bs : List Byte} {i : Instr}
    (h : decodeBytes (.bc6h signed layout) o bs = .ok i) : decodeBc6hBlock signed layout (blockOfBytes bs) = .ok i := by
  unfold decodeBytes at h
  dsimp only at h
  split at h
  · cases h
  · exact h

/-- Bytes that decode in BC7's space are at least a block, and decode as that block does. -/
theorem eq_decodeBc7Block_of_decodeBytes {o : Operands} {bs : List Byte} {i : Instr} (h : decodeBytes .bc7 o bs = .ok i) :
    i = decodeBc7Block (blockOfBytes bs) := by
  unfold decodeBytes at h
  dsimp only at h
  split at h
  · cases h
  · cases h; rfl

/-- The captured block of an activation decodes to a block instruction. -/
theorem isRequest_of_decodeBytes {f : Fmt} {sp : Space} {o : Operands} {bs : List Byte} {i : Instr}
    (hsp : f.space = some sp) (h : decodeBytes sp o bs = .ok i) : isRequest i = false := by
  cases f with
  | bc6h signed layout => cases hsp; exact isRequest_decodeBc6hBlock signed layout _ i (decodeBc6hBlock_of_decodeBytes h)
  | bc7 => cases hsp; rw [eq_decodeBc7Block_of_decodeBytes h]; exact isRequest_decodeBc7Block _
  | other format => cases hsp

/-- The step of an activation is the same whether `exec` or the datapath runs its block's instruction. -/
theorem stepActive_eq_runActive {s : State} {a : Activation} {rest : List Activation} (h : s.active = a :: rest) :
    stepActive a s = runActive s := by
  unfold stepActive runActive
  rw [h]
  dsimp only
  cases hp : a.phase with
  | returning => rfl
  | decoding =>
    unfold runDecoder
    cases hf : a.fmt with
    | other format => rfl
    | bc6h signed layout =>
      dsimp only [Fmt.space]
      cases hd : decodeBytes (.bc6h signed layout) Operands.zero a.bytes with
      | error r => rfl
      | ok i => exact (runBlockInstr_eq_exec i s (isRequest_of_decodeBytes (f := .bc6h signed layout) rfl hd)).symm
    | bc7 =>
      dsimp only [Fmt.space]
      cases hd : decodeBytes .bc7 Operands.zero a.bytes with
      | error r => rfl
      | ok i => exact (runBlockInstr_eq_exec i s (isRequest_of_decodeBytes (f := .bc7) rfl hd)).symm

/-! ### The moves of a step -/

/-- What the unit does, in moves: a request is taken, an activation is brought forward, begins, decodes or returns. -/
inductive UnitMove : State → State → Prop
  | take (s : State) (queue : List Request) (issuer : Nat) (agenda : List Event) :
      UnitMove s { s with queue := queue, issuer := issuer, agenda := agenda }
  | bringForward (s : State) (k : Nat) : UnitMove s (s.bringForward k)
  | begin {s : State} {i : Instr} {a : Activation} (h : frontEnd s i = some a) : UnitMove s (s.begin a)
  | decode {s : State} {a : Activation} {rest : List Activation} {r : WorkRegs} (h : s.active = a :: rest)
      (hphase : a.phase = .decoding) (hregs : a.Decodes r) :
      UnitMove s { s with active := { a with regs := r, phase := .returning } :: rest }
  | deliver {s : State} {a : Activation} {rest : List Activation} (h : s.active = a :: rest)
      (hphase : a.phase = .returning) : UnitMove s (State.deliverTo { s with active := rest } a)

/-- Any number of moves of the unit. -/
abbrev UnitRun : State → State → Prop :=
  Relation.ReflTransGen UnitMove

/-- What other agents and the host do at an event (R412, R415). -/
inductive HostMove (s : State) : Event → State → Prop
  | memWrite (addr : Nat) (b : Byte) : HostMove s (.memWrite addr b) (s.storeByte addr b)
  | spanWrite (view : Nat) (sel : SurfaceSel) (off : Nat) (b : Byte) :
      HostMove s (.spanWrite view sel off b) (s.writeSpan view sel off b)
  | createSampler (smp view : Nat) : HostMove s (.createSampler smp view) (s.createSampler smp view)

/-- The decoder of the running activation gives it registers it can decode to. -/
theorem runDecoder_next {s t : State} {a : Activation} {rest : List Activation} (hs : s.active = a :: rest)
    (h : runDecoder a s = .next t) :
    ∃ r, a.Decodes r ∧ t = { s with active := { a with regs := r, phase := .returning } :: rest } := by
  have hblock : ∀ {sp i}, a.fmt.space = some sp → decodeBytes sp Operands.zero a.bytes = .ok i →
      runBlockInstr i s = .next t →
      ∃ r, a.Decodes r ∧ t = { s with active := { a with regs := r, phase := .returning } :: rest } := by
    intro sp i hsp hdec hrun
    have hreq := isRequest_of_decodeBytes hsp hdec
    obtain ⟨b, hb⟩ := exists_blockForm hreq
    rw [runBlockInstr_eq_exec i s hreq, exec_of_blockForm hb, State.decodeInto_cons s a rest _ hs] at hrun
    cases hrun
    exact ⟨_, .block hsp hdec hb, rfl⟩
  unfold runDecoder at h
  split at h
  next format hfmt =>
    rw [State.decodeInto_cons s a rest _ hs] at h
    cases h
    exact ⟨_, .other hfmt, rfl⟩
  next signed layout hfmt =>
    split at h
    next i hdec => exact hblock (by rw [hfmt]; rfl) hdec h
    next => cases h
  next hfmt =>
    split at h
    next i hdec => exact hblock (by rw [hfmt]; rfl) hdec h
    next => cases h

/-- The next step of the running activation is one move: it decodes or it returns. -/
theorem runActive_move {s t : State} {a : Activation} {rest : List Activation} (hs : s.active = a :: rest)
    (h : runActive s = .next t) : UnitMove s t := by
  unfold runActive at h
  rw [hs] at h
  dsimp only at h
  split at h
  next hphase =>
    obtain ⟨r, hr, rfl⟩ := runDecoder_next hs h
    exact .decode hs hphase hr
  next hphase =>
    cases h
    rw [State.deliver_cons s a rest hs]
    exact .deliver hs hphase

/-- With no operation in progress there is nothing to run. -/
theorem runActive_run {s t : State} (h : runActive s = .next t) : UnitRun s t := by
  cases hs : s.active with
  | nil => unfold runActive at h; rw [hs] at h; cases h; exact .refl
  | cons a rest => exact .single (runActive_move hs h)

/-- An operation just begun runs to its return in moves of the unit. -/
theorem complete_run {p : Phase} {s t : State} (h : complete p s = .next t) : UnitRun s t := by
  cases p with
  | returning => exact runActive_run h
  | decoding =>
    unfold complete at h
    dsimp only at h
    split at h
    next u hu => exact (runActive_run hu).trans (runActive_run h)
    next => cases h
    next => cases h

/-- A request, run as one operation, is a run of the unit's moves (R419). -/
theorem exec_request_run {i : Instr} {s t : State} (hreq : isRequest i = true) (h : exec i s = .next t) :
    UnitRun s t := by
  rw [exec_request hreq] at h
  cases hf : frontEnd s i with
  | none => rw [hf] at h; cases h; exact .refl
  | some a => rw [hf] at h; exact .head (.begin hf) (complete_run h)

theorem start_run (s : State) (i : Instr) : UnitRun s (s.start i) := by
  rw [start_eq]
  cases hf : frontEnd s i with
  | none => exact .refl
  | some a => exact .single (.begin hf)

theorem stepUnit_run {s t : State} (h : stepUnit s = .next t) : UnitRun s t := by
  unfold stepUnit at h
  split at h
  next a rest hs =>
    rw [stepActive_eq_runActive hs] at h
    exact .single (runActive_move hs h)
  next =>
    split at h
    next => cases h; exact .refl
    next r rest hq =>
      unfold stepRequest at h
      split at h
      next i hdec =>
        exact .head (.take s rest r.requester s.agenda) (exec_request_run (isRequest_decodeRequest _ _ _ hdec) h)
      next => cases h; exact .single (.take s rest s.issuer s.agenda)

theorem issueNext_run (s : State) : UnitRun s s.issueNext := by
  unfold State.issueNext
  split
  next => exact .refl
  next r rest hq =>
    split
    next i hdec => exact .head (.take s rest r.requester s.agenda) (start_run _ i)
    next => exact .single (.take s rest s.issuer s.agenda)

theorem stepAdvance_run {k : Nat} {s t : State} (h : stepAdvance k s = .next t) : UnitRun s t := by
  unfold stepAdvance at h
  split at h
  next => cases h; exact .refl
  next a hk =>
    have hs : (s.bringForward k).active = a :: s.active.eraseIdx k := by unfold State.bringForward; rw [hk]
    rw [stepActive_eq_runActive hs] at h
    exact .head (.bringForward s k) (.single (runActive_move hs h))

/-- What a step can do: a run of the unit's moves, or what another agent does at the event that was due. -/
theorem step_cases {s t : State} (h : step s = .next t) :
    UnitRun s t ∨ ∃ e rest, s.agenda = e :: rest ∧ HostMove { s with agenda := rest } e t := by
  cases hag : s.agenda with
  | nil => rw [step_nil s hag] at h; exact .inl (stepUnit_run h)
  | cons e rest =>
    rw [step_cons s e rest hag] at h
    have hpop : UnitMove s { s with agenda := rest } := .take s s.queue s.issuer rest
    cases e with
    | issue => cases h; exact .inl (.head hpop (issueNext_run _))
    | advance k => exact .inl (.head hpop (stepAdvance_run h))
    | memWrite addr b => cases h; exact .inr ⟨_, rest, rfl, .memWrite addr b⟩
    | spanWrite view sel off b => cases h; exact .inr ⟨_, rest, rfl, .spanWrite view sel off b⟩
    | createSampler smp view => cases h; exact .inr ⟨_, rest, rfl, .createSampler smp view⟩

/-- What every move keeps, a run keeps. -/
theorem UnitRun.keeps {P : State → Prop} (hmove : ∀ {s t}, UnitMove s t → P s → P t) {s t : State} (h : UnitRun s t)
    (hs : P s) : P t := by
  induction h with
  | refl => exact hs
  | tail _ hlast ih => exact hmove hlast ih

/-- What every move of the unit and of the others keeps, a step keeps. -/
theorem step_keeps {P : State → Prop} (hunit : ∀ {s t}, UnitMove s t → P s → P t)
    (hhost : ∀ {s e t}, HostMove s e t → P s → P t) {s t : State} (h : step s = .next t) (hs : P s) : P t := by
  rcases step_cases h with hrun | ⟨e, rest, -, hmove⟩
  · exact hrun.keeps hunit hs
  · exact hhost hmove (hunit (.take s s.queue s.issuer rest) hs)

end Sys2Proof.Machine

/-! PROOFS. What begins an activation, what a block instruction leaves, and that the unit writes no texture, no binding and no
kind. -/

namespace Sys2Proof.Machine

/-! ### Textures and bindings (R34, R82) -/

/-- The textures, the bindings and the kinds of two states are the same. -/
def SameTextures (s t : State) : Prop :=
  t.views = s.views ∧ t.samplers = s.samplers ∧ t.formats = s.formats

theorem UnitMove.sameTextures {s t : State} (h : UnitMove s t) : SameTextures s t := by
  cases h <;> simp [SameTextures]

theorem UnitRun.sameTextures {s t : State} (h : UnitRun s t) : SameTextures s t :=
  h.keeps (P := SameTextures s)
    (fun hmove ⟨hv, hs, hf⟩ =>
      have ⟨hv', hs', hf'⟩ := hmove.sameTextures
      ⟨hv'.trans hv, hs'.trans hs, hf'.trans hf⟩)
    ⟨rfl, rfl, rfl⟩

/-- A block instruction sets registers only; a request is a run of the unit's moves. -/
theorem exec_sameTextures {i : Instr} {s t : State} (h : exec i s = .next t) : SameTextures s t := by
  cases hreq : isRequest i with
  | true => exact (exec_request_run hreq h).sameTextures
  | false =>
    obtain ⟨b, hb⟩ := exists_blockForm hreq
    rw [exec_of_blockForm hb] at h
    obtain ⟨a, rest, -, rfl⟩ := State.decodeInto_next s t _ h
    exact ⟨rfl, rfl, rfl⟩

/-- Settles O43: the unit's moves keep all three, and of the events each writes at most its own. -/
theorem texturesReadOnly : Obligations.TexturesReadOnly := by
  refine ⟨fun i s t => exec_sameTextures, fun s t h => ?_⟩
  rcases step_cases h with hrun | ⟨e, rest, hag, hmove⟩
  · obtain ⟨hv, hs, hf⟩ := hrun.sameTextures
    exact ⟨hf, .inl hv, .inl hs⟩
  · rw [hag]
    cases hmove with
    | memWrite addr b => exact ⟨rfl, .inl rfl, .inl rfl⟩
    | spanWrite view sel off b => exact ⟨rfl, .inr ⟨view, sel, off, b, rfl⟩, .inl rfl⟩
    | createSampler smp view => exact ⟨by simp, .inl (by simp), .inr ⟨smp, view, rfl⟩⟩

theorem State.createSampler_bound {s : State} {smp w : Nat} (h : s.binding smp = some w) (v : Nat) :
    s.createSampler smp v = s := by
  unfold State.createSampler; rw [h]

theorem State.createSampler_unbound {s : State} {smp : Nat} (h : s.binding smp = none) (v : Nat) :
    s.createSampler smp v = { s with samplers := Sparse.write none s.samplers smp (some v) } := by
  unfold State.createSampler; rw [h]

/-- The host's creation of a sampler changes nothing but the bindings. -/
theorem State.createSampler_eq (s : State) (smp v : Nat) :
    s.createSampler smp v = { s with samplers := (s.createSampler smp v).samplers } := by
  cases hb : s.binding smp with
  | some w => rw [State.createSampler_bound hb]
  | none => rw [State.createSampler_unbound hb]

/-- The host's creation of a sampler binds its number to the view when it is unbound (R412; log 20). -/
theorem State.binding_createSampler (s : State) (smp v n : Nat) :
    (s.createSampler smp v).binding n = if n = smp ∧ s.binding smp = none then some v else s.binding n := by
  cases hb : s.binding smp with
  | some w => simp [State.createSampler_bound hb]
  | none =>
    rw [State.createSampler_unbound hb]
    by_cases hn : n = smp
    · rw [if_pos ⟨hn, rfl⟩, hn]
      exact Sparse.read_write_same_of_ne none s.samplers smp (some v) (Option.some_ne_none v)
    · rw [if_neg fun h => hn h.1]
      exact Sparse.read_write_other none s.samplers smp n (some v) hn

/-- A binding that is set stays as it is under every move and event. -/
theorem step_keeps_binding {s t : State} {smp v : Nat} (hb : s.binding smp = some v) (h : step s = .next t) :
    t.binding smp = some v := by
  refine step_keeps (P := fun s => s.binding smp = some v) (fun hmove hb => ?_) (fun hmove hb => ?_) h hb
  · obtain ⟨-, hs, -⟩ := hmove.sameTextures
    rw [State.binding, hs]
    exact hb
  · cases hmove with
    | memWrite | spanWrite => exact hb
    | createSampler smp' view =>
      rw [State.binding_createSampler, if_neg, hb]
      rintro ⟨rfl, hnone⟩
      rw [hnone] at hb
      cases hb

/-- Settles O44: only `createSampler` writes the bindings, and it writes no number that is bound. -/
theorem bindingFixed : Obligations.BindingFixed := by
  refine ⟨fun s t smp v => step_keeps_binding, fun s ev smp v hag => ⟨_, step_cons s _ ev hag, ?_, ?_⟩⟩
  · exact State.createSampler_eq { s with agenda := ev } smp v
  · exact State.binding_createSampler { s with agenda := ev } smp v

/-! ### The start of an operation (R411) -/

/-- The front end's activation is a fresh one of the request's issuer, and returns at once only when it has no block. -/
theorem frontEnd_fresh {s : State} {i : Instr} {a : Activation} (h : frontEnd s i = some a) :
    a.requester = s.issuer ∧ a.regs = WorkRegs.start ∧
      (a.phase = .returning → ∃ scr n, a.client = .sampler scr n none) := by
  rcases frontEnd_cases h with ⟨fmt, blk, out, -, -, rfl⟩ | ⟨scr, smp, rfl⟩ | ⟨scr, smp, texel, sel, hload⟩
  · exact ⟨rfl, rfl, fun hphase => by cases hphase⟩
  · exact ⟨rfl, rfl, fun _ => ⟨_, _, rfl⟩⟩
  · obtain ⟨-, -, -, bytes, -, rfl⟩ := loadBlock_some s scr smp texel sel a hload
    exact ⟨rfl, rfl, fun hphase => by cases hphase⟩

/-- LOAD's activation has the scratch buffer the request names, a failed check's too (R361). -/
theorem loadFront_client (s : State) (scr : Option ScratchRef) (smp : Nat) (texel : Vec3) (sel : Selector) :
    ∃ n e, (loadFront s scr smp texel sel).client = .sampler scr n e := by
  rcases loadFront_cases s scr smp texel sel with ⟨-, he⟩ | ⟨a, ha, he⟩
  · exact ⟨_, none, by rw [he]; rfl⟩
  · obtain ⟨-, -, -, bytes, -, rfl⟩ := loadBlock_some s scr smp texel sel a ha
    exact ⟨_, _, by rw [he]; rfl⟩

/-- The front end's activation uses the buffer that the request names (R361). -/
theorem frontEnd_usesBuffer {s : State} {i : Instr} {a : Activation} (h : frontEnd s i = some a) :
    Spec.usesBuffer i a.client := by
  cases i with
  | decodeBc6h signed layout blk out =>
    obtain ⟨-, rfl⟩ : out.wf = true ∧ decodeFront s (.bc6h signed layout) blk out = a := by simpa [frontEnd] using h
    rfl
  | decodeBc7 blk out =>
    obtain ⟨-, rfl⟩ : out.wf = true ∧ decodeFront s .bc7 blk out = a := by simpa [frontEnd] using h
    rfl
  | load scr smp texel sel => cases h; exact loadFront_client s scr smp texel sel
  | sample scr smp uv sel =>
    cases h
    rcases sampleFront_cases s scr smp uv sel with he | ⟨texel, he⟩
    · exact ⟨_, none, by rw [he]; rfl⟩
    · rw [he]; exact loadFront_client s scr smp texel sel
  | _ => cases h

/-- Settles O39: the event begins the front end's activation, and `begin` marks it and those that share its buffer. -/
theorem activationStart : Obligations.ActivationStart := by
  intro s ev r rest i hag hq hdec
  obtain ⟨a, ha⟩ := frontEnd_of_decodeRequest hdec { s with agenda := ev, queue := rest, issuer := r.requester }
  obtain ⟨hreq, hregs, hphase⟩ := frontEnd_fresh ha
  have hbuffer : Spec.usesBuffer i a.client := frontEnd_usesBuffer ha
  refine ⟨{ a with raced := s.active.any a.shares }, hreq, hregs, hbuffer, hphase, List.any_eq_true, ?_⟩
  rw [step_cons s _ ev hag]
  simp only [stepEvent, State.issueNext, hq, hdec, start_eq, ha]
  rfl

/-! ### The frame of a block instruction -/

/-- A BC6H block leaves what only BC7 has, and the endpoints of region 2 (R200, R212). -/
theorem bc6h_run_frame (code : Nat) (signed : Bool) (layout : Layout) (f : Bc6hFields) (r : WorkRegs) :
    let r' := Bc6h.run code signed layout f r
    r'.rot = r.rot ∧ r'.imode = r.imode ∧ r'.pbits = r.pbits ∧ r'.w2 = r.w2 ∧ r'.ends.drop 4 = r.ends.drop 4 := by
  unfold Bc6h.run
  split
  · exact ⟨rfl, rfl, rfl, rfl, rfl⟩
  · dsimp only
    split <;> exact ⟨rfl, rfl, rfl, rfl, rfl⟩

/-- An instruction that is encoded as a BC6H block has a BC6H form. -/
theorem blockForm_of_encode_bc6h {i : Instr} {b : BlockForm} (hb : blockForm i = some b) {signed : Bool} {layout : Layout}
    {blk : Block} (h : encode i = .bc6h signed layout blk) : ∃ code f, b = .bc6h code signed layout f := by
  cases i <;> cases hb <;> cases h <;> exact ⟨_, _, rfl⟩

/-- The obligations' own name for the requests says the same. -/
theorem spec_isRequest_eq (i : Instr) : Spec.isRequest i = isRequest i := by
  cases i <;> rfl

/-- Settles O40: every block instruction is the datapath with its form's registers. -/
theorem blockFrame : Obligations.BlockFrame := by
  intro i s t hblock h
  obtain ⟨b, hb⟩ := exists_blockForm ((spec_isRequest_eq i).symm.trans hblock)
  rw [exec_of_blockForm hb] at h
  obtain ⟨a, rest, hs, rfl⟩ := State.decodeInto_next s t _ h
  refine ⟨a, rest, b.run a.regs, hs, rfl, fun signed layout blk henc => ?_, fun hres => ?_⟩
  · obtain ⟨code, f, rfl⟩ := blockForm_of_encode_bc6h hb henc
    exact bc6h_run_frame code signed layout f a.regs
  · rcases hres with ⟨sg, l, x, rfl | rfl | rfl | rfl⟩ | ⟨x, rfl⟩ <;> cases hb <;> rfl

end Sys2Proof.Machine

/-! PROOFS. The invariant of Safety.lean: the reset state has it, and every move and event keeps it. -/

namespace Sys2Proof.Machine

/-! ### What is kept of the activations in progress -/

/-- Two states of an operation in progress differ in the captured bytes at most, and not in their number. -/
def SameButBytes (x x' : Activation) : Prop :=
  ∃ bytes, bytes.length = x.bytes.length ∧ x' = { x with bytes := bytes }

theorem TornBy.sameButBytes {a : Nat} {bs : List Byte} {x x' : Activation} (h : TornBy a bs x x') : SameButBytes x x' :=
  ⟨x'.bytes, h.2.1, h.1⟩

theorem Disturbed.sameButBytes {hit : Activation → Option Nat} {b : Byte} {x x' : Activation} (h : Disturbed hit b x x') :
    SameButBytes x x' := by
  rcases h with rfl | ⟨j, -, rfl⟩
  · exact ⟨x'.bytes, rfl, rfl⟩
  · exact ⟨_, List.length_set, rfl⟩

/-- Returning an operation leaves the others as they are but for bytes they are still reading (R415). -/
theorem State.deliverTo_active (s : State) (a : Activation) : List.Forall₂ SameButBytes s.active (s.deliverTo a).active := by
  have hrefl : ∀ as : List Activation, List.Forall₂ SameButBytes as as := fun as =>
    List.forall₂_same.mpr fun x _ => ⟨x.bytes, rfl, rfl⟩
  have hstore : ∀ (u : State) (addr : Nat) (bs : List Byte), u.active = s.active →
      List.Forall₂ SameButBytes s.active (u.storeBytes addr bs).active := fun u addr bs hu =>
    hu ▸ (u.storeBytes_active addr bs).imp fun _ _ => TornBy.sameButBytes
  unfold State.deliverTo
  cases a.client with
  | sampler scr count entry => simpa using hrefl s.active
  | decode out =>
    dsimp only [State.deliverDecode]
    split <;> exact hstore _ _ _ (by rfl)

/-- A property of an activation that the whole of a step keeps: it holds of every fresh one, and does not depend on the raced
mark or on what the captured bytes are, and the decoder keeps it. -/
structure StableOfActivations (Q : Activation → Prop) : Prop where
  front : ∀ {s i a}, frontEnd s i = some a → Q a
  raced : ∀ {a b}, Q a → Q { a with raced := b }
  bytes : ∀ {a a'}, SameButBytes a a' → Q a → Q a'
  decode : ∀ {a r}, Q a → a.phase = .decoding → a.Decodes r → Q { a with regs := r, phase := .returning }

section

variable {Q : Activation → Prop}

theorem forall_of_forall₂_sameButBytes (hQ : StableOfActivations Q) {as as' : List Activation}
    (h : List.Forall₂ SameButBytes as as') (hs : ∀ a ∈ as, Q a) : ∀ a ∈ as', Q a := by
  induction h with
  | nil => simp
  | cons hx _ ih =>
    rw [List.forall_mem_cons] at hs ⊢
    exact ⟨hQ.bytes hx hs.1, ih hs.2⟩

theorem State.begin_forall (hQ : StableOfActivations Q) {s : State} {a : Activation} (ha : Q a) (hs : ∀ a ∈ s.active, Q a) :
    ∀ x ∈ (s.begin a).active, Q x := by
  refine List.forall_mem_cons.mpr ⟨hQ.raced ha, fun x hx => ?_⟩
  obtain ⟨b, hb, rfl⟩ := List.mem_map.mp hx
  split
  · exact hQ.raced (hs b hb)
  · exact hs b hb

theorem State.bringForward_forall {s : State} (k : Nat) (hs : ∀ a ∈ s.active, Q a) :
    ∀ a ∈ (s.bringForward k).active, Q a := by
  unfold State.bringForward
  split
  · exact hs
  next a hk =>
    exact List.forall_mem_cons.mpr
      ⟨hs a (List.mem_of_getElem? hk), fun x hx => hs x (List.mem_of_mem_eraseIdx hx)⟩

theorem UnitMove.keeps_activations (hQ : StableOfActivations Q) {s t : State} (h : UnitMove s t)
    (hs : ∀ a ∈ s.active, Q a) : ∀ a ∈ t.active, Q a := by
  cases h with
  | take => exact hs
  | bringForward k => exact State.bringForward_forall k hs
  | begin hfront => exact State.begin_forall hQ (hQ.front hfront) hs
  | decode hactive hphase hregs =>
    rw [hactive, List.forall_mem_cons] at hs
    exact List.forall_mem_cons.mpr ⟨hQ.decode hs.1 hphase hregs, hs.2⟩
  | deliver hactive hphase =>
    rw [hactive, List.forall_mem_cons] at hs
    exact forall_of_forall₂_sameButBytes hQ (State.deliverTo_active _ _) hs.2

theorem HostMove.keeps_activations (hQ : StableOfActivations Q) {s t : State} {e : Event} (h : HostMove s e t)
    (hs : ∀ a ∈ s.active, Q a) : ∀ a ∈ t.active, Q a := by
  have hdisturb : ∀ hit b, ∀ a ∈ (disturb hit b s.active s.freeCount).1, Q a := fun hit b =>
    forall_of_forall₂_sameButBytes hQ ((disturb_forall₂ hit b _ _).imp fun _ _ => Disturbed.sameButBytes) hs
  cases h with
  | memWrite addr b => exact hdisturb _ b
  | spanWrite view sel off b => exact hdisturb _ b
  | createSampler smp view => simpa using hs

/-- Every step keeps a stable property of all the activations in progress. -/
theorem step_keeps_activations (hQ : StableOfActivations Q) {s t : State} (h : step s = .next t)
    (hs : ∀ a ∈ s.active, Q a) : ∀ a ∈ t.active, Q a :=
  step_keeps (P := fun s => ∀ a ∈ s.active, Q a) (fun hmove => hmove.keeps_activations hQ)
    (fun hmove => hmove.keeps_activations hQ) h hs

end

/-! ### The memories and tables -/

/-- The memories and tables are in their canonical forms. -/
structure State.Canonical (s : State) : Prop where
  mem : Memory.wf s.mem = true
  scratch : Scratch.wf s.scratch = true
  views : Sparse.wf TextureView.absent s.views = true
  samplers : Sparse.wf none s.samplers = true
  formats : Sparse.wf Kind.other s.formats = true

theorem State.inv_iff (s : State) : s.Inv ↔ s.Canonical ∧ ∀ a ∈ s.active, a.ok = true :=
  ⟨fun ⟨hm, hsc, hv, hsm, hf, ha⟩ => ⟨⟨hm, hsc, hv, hsm, hf⟩, ha⟩,
    fun ⟨⟨hm, hsc, hv, hsm, hf⟩, ha⟩ => ⟨hm, hsc, hv, hsm, hf, ha⟩⟩

theorem scratchAfter_wf {m : Sparse Sample} (h : Scratch.wf m = true) (scr : Option ScratchRef) (ss : List Sample) :
    Scratch.wf (scratchAfter m scr ss) = true := by
  cases scr with
  | none => exact h
  | some r => exact Scratch.wf_writeAll m r.base ss h

theorem State.deliverTo_mem_wf {s : State} (h : Memory.wf s.mem = true) (a : Activation) :
    Memory.wf (s.deliverTo a).mem = true := by
  unfold State.deliverTo
  cases a.client with
  | sampler scr count entry => simpa using h
  | decode out =>
    dsimp only [State.deliverDecode]
    split
    · exact State.storeBytes_wf _ _ _ h
    · exact State.storeBytes_wf _ _ _ h

theorem State.deliverTo_scratch_wf {s : State} (h : Scratch.wf s.scratch = true) (a : Activation) :
    Scratch.wf (s.deliverTo a).scratch = true := by
  unfold State.deliverTo
  cases a.client with
  | decode out => simpa using h
  | sampler scr count entry =>
    dsimp only [State.deliverSample]
    split
    · exact scratchAfter_wf h scr _
    · cases entry with
      | none => exact h
      | some k => exact scratchAfter_wf h scr _

theorem UnitMove.canonical {s t : State} (h : UnitMove s t) (hs : s.Canonical) : t.Canonical := by
  obtain ⟨hviews, hsamplers, hformats⟩ := h.sameTextures
  have hmem : Memory.wf t.mem = true := by
    cases h with
    | deliver => apply State.deliverTo_mem_wf; exact hs.mem
    | _ => simpa using hs.mem
  have hscratch : Scratch.wf t.scratch = true := by
    cases h with
    | deliver => apply State.deliverTo_scratch_wf; exact hs.scratch
    | _ => simpa using hs.scratch
  exact ⟨hmem, hscratch, hviews ▸ hs.views, hsamplers ▸ hs.samplers, hformats ▸ hs.formats⟩

theorem HostMove.canonical {s t : State} {e : Event} (h : HostMove s e t) (hs : s.Canonical) : t.Canonical := by
  cases h with
  | memWrite addr b => exact { hs with mem := Memory.wf_write s.mem addr b hs.mem }
  | spanWrite view sel off b => exact { hs with views := Sparse.wf_write _ s.views view _ hs.views }
  | createSampler smp view =>
    cases hb : s.binding smp with
    | some w => rw [State.createSampler_bound hb]; exact hs
    | none =>
      rw [State.createSampler_unbound hb]
      exact { hs with samplers := Sparse.wf_write none s.samplers smp (some view) hs.samplers }

/-! ### The shape of the working registers -/

/-- The sizes of the working registers (R30), and the cursor's bound (R31, R173). -/
structure WorkRegs.Shaped (r : WorkRegs) : Prop where
  cur : r.cur ≤ 128
  w1 : r.w1.length = 16
  w2 : r.w2.length = 16
  ends : r.ends.length = 6
  pbits : r.pbits.length = 6

theorem WorkRegs.start_shaped : WorkRegs.start.Shaped := by
  constructor <;> decide

/-- The guard of R213 keeps the pixel loop's cursor within the block. -/
theorem Bc6h.pixels_cur_le (limit : Nat) (px : Nat → Nat → Texel) : ∀ (ns is : List Nat) (cur k : Nat), cur ≤ 128 →
    (Bc6h.pixels limit px cur k ns is).1 ≤ 128
  | n :: ns, idx :: is, cur, k, h => by
    unfold Bc6h.pixels
    split
    next => exact h
    next hfits =>
      have hn : cur + n ≤ 128 := by simpa [overruns] using hfits
      split
      · exact hn
      · exact Bc6h.pixels_cur_le limit px ns is (cur + n) (k + 1) hn
  | [], _, _, _, h => by simpa [Bc6h.pixels] using h
  | _ :: _, [], _, _, h => by simpa [Bc6h.pixels] using h

/-- The pixel loop gives one texel for each index. -/
theorem Bc6h.pixels_length (limit : Nat) (px : Nat → Nat → Texel) : ∀ (ns is : List Nat) (cur k : Nat) (ts : List Texel),
    ns.length = is.length → (Bc6h.pixels limit px cur k ns is).2 = some ts → ts.length = is.length
  | [], [], _, _, ts, _, h => by cases h; rfl
  | n :: ns, idx :: is, cur, k, ts, hl, h => by
    unfold Bc6h.pixels at h
    split at h
    · cases h
    split at h
    · cases h
    obtain ⟨ts', hts', rfl⟩ := Option.map_eq_some_iff.mp h
    have := Bc6h.pixels_length limit px ns is (cur + n) (k + 1) ts' (by simpa using hl) hts'
    simp [this]

/-- The guard of R274 keeps the cursor within the block. -/
theorem guardReads_cur_le : ∀ (ns : List Nat) (cur : Nat), cur ≤ 128 → (guardReads cur ns).1 ≤ 128
  | [], _, h => h
  | n :: ns, cur, h => by
    unfold guardReads
    split
    next => exact h
    next hfits => exact guardReads_cur_le ns (cur + n) (by simpa [overruns] using hfits)

@[simp] theorem length_fill (t : Texel) : (fill t).length = 16 := List.length_replicate

@[simp] theorem length_indexWidths (pc shape p : Nat) : (Rom.indexWidths pc shape p).length = 16 := by
  simp [Rom.indexWidths]

theorem bc6h_run_shaped (code : Nat) (signed : Bool) (layout : Layout) (f : Bc6hFields) {r : WorkRegs} (hr : r.Shaped) :
    (Bc6h.run code signed layout f r).Shaped ∧ (Bc6h.run code signed layout f r).out.length = 16 := by
  unfold Bc6h.run
  split
  next =>
    have hcur : bc6hPrefixBits code ≤ 128 := by unfold bc6hPrefixBits; split <;> decide
    exact ⟨{ hr with cur := hcur }, length_fill _⟩
  next i _ =>
    have hheader : bc6hHeaderBits i.pc ≤ 128 := by unfold bc6hHeaderBits; split <;> decide
    have hcur := Bc6h.pixels_cur_le (Bc6h.indexLimit i.pc)
      (Bc6h.pixel i signed layout (Bc6h.endpoints i signed f) f.d) (Rom.indexWidths i.pc f.d i.ib)
      ((List.range 16).map fun k => f.idx.getD k 0) _ 0 hheader
    have hends : (Bc6h.endpoints i signed f ++ r.ends.drop 4).length = 6 := by simp [Bc6h.endpoints, hr.ends]
    dsimp only
    split
    next ts hts =>
      exact ⟨⟨hcur, by simp, hr.w2, hends, hr.pbits⟩, by simpa using Bc6h.pixels_length _ _ _ _ _ _ ts (by simp) hts⟩
    next => exact ⟨⟨hcur, by simp, hr.w2, hends, hr.pbits⟩, length_fill _⟩

/-- The greatest parameters of a valid BC7 mode (R37). -/
theorem bc7Info_bounds {mode : Nat} {i : Bc7Info} (h : Rom.bc7Info mode = some i) :
    mode ≤ 7 ∧ i.pc ≤ 2 ∧ i.pb ≤ 6 ∧ i.rb ≤ 2 ∧ i.imb ≤ 1 ∧ i.ip ≤ 4 ∧ i.ip2 ≤ 4 := by
  unfold Rom.bc7Info at h
  split at h <;> cases h <;> decide

theorem bc7_run_shaped (mode : Nat) (f : Bc7Fields) {r : WorkRegs} (hr : r.Shaped) :
    (Bc7.run mode f r).Shaped ∧ (Bc7.run mode f r).out.length = 16 := by
  unfold Bc7.run
  split
  next => exact ⟨{ hr with cur := (by decide : 8 ≤ 128) }, length_fill _⟩
  next i hi =>
    obtain ⟨hmode, hpc, -⟩ := bc7Info_bounds hi
    have hcur := guardReads_cur_le (Bc7.fieldWidths i f.shape) (mode + 1) (by omega)
    have hends : ((List.range (2 * (i.pc + 1))).map (Bc7.endpoint i f) ++ r.ends.drop (2 * (i.pc + 1))).length = 6 := by
      simp [hr.ends]; omega
    dsimp only
    split
    · exact ⟨⟨hcur, by simp, by simp, hends, by simp⟩, by simp⟩
    · exact ⟨⟨hcur, by simp, by simp, hends, by simp⟩, length_fill _⟩

/-- The decoder leaves the registers in shape and the output of the format's texel count (R200, R260, R363). -/
theorem Activation.Decodes.shaped {a : Activation} {r : WorkRegs} (h : a.Decodes r) (ha : a.regs.Shaped) :
    r.Shaped ∧ r.out.length = a.fmt.texelCount := by
  cases h with
  | @block sp i b hsp hdec hform =>
    have hcount : a.fmt.texelCount = 16 := by
      cases hf : a.fmt with
      | bc6h | bc7 => rfl
      | other format => rw [hf] at hsp; cases hsp
    rw [hcount]
    cases b with
    | bc6h code signed layout f => exact bc6h_run_shaped code signed layout f ha
    | bc7 mode f => exact bc7_run_shaped mode f ha
  | other hfmt => exact ⟨⟨ha.cur, ha.w1, ha.w2, ha.ends, ha.pbits⟩, by rw [hfmt]; simp [runOther]⟩

/-! ### The shape of an activation -/

theorem Activation.shaped_of_ok {a : Activation} (h : a.ok = true) : a.regs.Shaped := by
  simp only [Activation.ok, Bool.and_eq_true, decide_eq_true_eq] at h
  obtain ⟨⟨⟨⟨⟨⟨hcur, hw1⟩, hw2⟩, hends⟩, hpbits⟩, -⟩, -⟩ := h
  exact ⟨hcur, hw1, hw2, hends, hpbits⟩

/-- An activation in shape that is about to decode has a block. -/
theorem Activation.hasBlock_of_decoding {a : Activation} (h : a.ok = true) (hphase : a.phase = .decoding) :
    a.hasBlock = true := by
  by_contra hb
  simp [Activation.ok, hb, hphase] at h

/-- An activation about to decode stays in shape when the decoder leaves registers in shape and a whole output. -/
theorem Activation.ok_decoded {a : Activation} {r : WorkRegs} (h : a.ok = true) (hphase : a.phase = .decoding)
    (hr : r.Shaped) (hout : r.out.length = a.fmt.texelCount) :
    Activation.ok { a with regs := r, phase := .returning } = true := by
  obtain ⟨hcur, hw1, hw2, hends, hpbits⟩ := hr
  have hb := Activation.hasBlock_of_decoding h hphase
  have hb' : Activation.hasBlock { a with regs := r, phase := .returning } = true := hb
  simp only [Activation.ok, hb, hphase, if_true, Bool.and_eq_true, Bool.and_true] at h
  obtain ⟨⟨-, hbytes⟩, hclient⟩ := h
  simp only [Activation.ok, hb', if_true, Bool.and_eq_true, decide_eq_true_eq]
  exact ⟨⟨⟨⟨⟨⟨hcur, hw1⟩, hw2⟩, hends⟩, hpbits⟩, hbytes, hout⟩, hclient⟩

theorem Activation.ok_bytes {a a' : Activation} (h : SameButBytes a a') (ha : a.ok = true) : a'.ok = true := by
  obtain ⟨bytes, hl, rfl⟩ := h
  rw [← ha]
  simp only [Activation.ok, hl]
  rfl

/-- The decoder of a kind writes the texels of the kind's geometry (R342). -/
theorem texelCount_fmtOfKind (k : Kind) (format : Nat) : (fmtOfKind k format).texelCount = (geometry k format).count := by
  cases k <;> rfl

theorem length_of_memRead {span : List Byte} {off n : Nat} {bs : List Byte} (h : memRead span off n = some bs) :
    bs.length = n := by
  unfold memRead at h
  split at h
  · cases h; simp; omega
  · cases h

/-- A texel's entry is one of its block's (R359). -/
theorem blockEntry_lt (k : Kind) (format x y : Nat) :
    blockEntry (geometry k format) x y < (geometry k format).count := by
  have hlt : ∀ bw bh : Nat, 0 < bw → 0 < bh → y % bh * bw + x % bw < bw * bh := fun bw bh hw hh => by
    have hy : (y % bh + 1) * bw ≤ bh * bw := Nat.mul_le_mul_right bw (Nat.mod_lt y hh)
    have hx := Nat.mod_lt x hw
    rw [Nat.mul_comm bw bh]
    linarith
  cases k with
  | other => exact hlt _ _ (lt_max_of_lt_left Nat.one_pos) (lt_max_of_lt_left Nat.one_pos)
  | _ => exact hlt 4 4 (by decide) (by decide)

/-- The activation of a block LOAD has read is in shape: the block has the size its kind's geometry gives (R356). -/
theorem sampler_activation_ok (s : State) (k : Kind) (format : Nat) {scr : Option ScratchRef} {entry : Nat} (src : Source)
    {bytes : List Byte} (hcap : (geometry k format).count ≤ scratchCap scr) (hentry : entry < (geometry k format).count)
    (hlen : bytes.length = (geometry k format).bytes) :
    (s.activation (fmtOfKind k format) (.sampler scr (geometry k format).count (some entry)) src bytes).ok = true := by
  simp only [Activation.ok, Activation.hasBlock, State.activation, WorkRegs.start, texelCount_fmtOfKind]
  cases k with
  | other => simp [fmtOfKind, hcap, hentry]
  | bc6hUf16 | bc6hSf16 | bc7 =>
    simp only [geometry] at hlen
    simp [fmtOfKind, hcap, hentry, hlen]

/-- A fresh activation is in shape: a DECODE's buffer and LOAD's capacity were checked (R157 (4), R352). -/
theorem frontEnd_ok {s : State} {i : Instr} {a : Activation} (h : frontEnd s i = some a) : a.ok = true := by
  rcases frontEnd_cases h with ⟨fmt, blk, out, hsp, hwf, rfl⟩ | ⟨scr, smp, rfl⟩ | ⟨scr, smp, texel, sel, hload⟩
  · have hentries : 16 ≤ out.entries := by simpa [OutRef.wf] using hwf
    cases fmt <;> simp [Activation.ok, Activation.hasBlock, decodeFront, State.activation, WorkRegs.start, hentries, hsp]
  · simp [Activation.ok, Activation.hasBlock, State.emptyActivation, State.activation, WorkRegs.start, texelCount_fmtOfKind]
  · obtain ⟨-, hcap, -, bytes, hread, rfl⟩ := loadBlock_some s scr smp texel sel a hload
    exact sampler_activation_ok s _ _ _ hcap (blockEntry_lt _ _ _ _) (length_of_memRead hread)

/-- Being in shape is stable. -/
theorem stable_ok : StableOfActivations fun a => a.ok = true where
  front := frontEnd_ok
  raced := fun h => h
  bytes := Activation.ok_bytes
  decode := fun h hphase hdec =>
    have ⟨hr, hout⟩ := hdec.shaped (Activation.shaped_of_ok h)
    Activation.ok_decoded h hphase hr hout

/-- Settles O46: the canonical forms and the shapes are kept by every move and event. -/
theorem stepKeepsInvariant : Obligations.StepKeepsInvariant := by
  intro s t hinv h
  rw [State.inv_iff] at hinv ⊢
  exact ⟨step_keeps (P := State.Canonical) UnitMove.canonical HostMove.canonical h hinv.1,
    step_keeps_activations stable_ok h hinv.2⟩

/-- Settles O45: after reset every table is empty and no operation is in progress. -/
theorem resetInvariants : Obligations.ResetInvariants := by
  have hnone : ∀ {Q : Activation → Prop}, ∀ a ∈ State.reset.active, Q a := fun a ha => nomatch ha
  exact ⟨rfl, ⟨rfl, rfl, rfl, rfl, rfl, hnone⟩, hnone, .nil, hnone⟩

end Sys2Proof.Machine

/-! PROOFS. The ranges of R30: what the decoders read from a block lies within its widths, no rule takes an endpoint channel
out of its range, and so every move and event keeps the ranges. -/

namespace Sys2Proof.Machine

/-! ### Values read within a width -/

theorem lt_of_fieldsFit {n : Nat} : ∀ {ws vs : List Nat}, fieldsFit ws vs = true → (∀ w ∈ ws, w ≤ n) →
    ∀ v ∈ vs, v < 2 ^ n
  | [], [], _, _ => by simp
  | [], _ :: _, h, _ => by cases h
  | _ :: _, [], h, _ => by cases h
  | w :: ws, v :: vs, h, hw => by
    obtain ⟨hv, hvs⟩ : v < 2 ^ w ∧ fieldsFit ws vs = true := by simpa [fieldsFit] using h
    rw [List.forall_mem_cons] at hw ⊢
    exact ⟨hv.trans_le (Nat.pow_le_pow_right (by decide) hw.1), lt_of_fieldsFit hvs hw.2⟩

theorem getList_lt (blk : Block) (cur : Nat) {ws : List Nat} {n : Nat} (hw : ∀ w ∈ ws, w ≤ n) :
    ∀ v ∈ (Bits.getList blk cur ws).1, v < 2 ^ n :=
  lt_of_fieldsFit (Bits.fieldsFit_getList blk ws cur) hw

theorem indexWidths_le (pc shape p : Nat) : ∀ w ∈ Rom.indexWidths pc shape p, w ≤ p := by
  intro w hw
  obtain ⟨k, -, rfl⟩ := List.mem_map.mp hw
  unfold Rom.indexWidth
  split <;> omega

theorem secondaryWidths_le (p : Nat) : ∀ w ∈ Rom.secondaryWidths p, w ≤ p := by
  unfold Rom.secondaryWidths
  split
  · simp
  · exact List.forall_mem_cons.mpr ⟨by omega, fun w hw => (List.eq_of_mem_replicate hw).le⟩

/-- Fields copied to a register of n values, a missing one as 0, keep their bound. -/
theorem map_getD_lt {l : List Nat} {m : Nat} (hm : 0 < m) (h : ∀ v ∈ l, v < m) (n : Nat) :
    ∀ v ∈ (List.range n).map fun k => l.getD k 0, v < m := by
  intro v hv
  obtain ⟨k, -, rfl⟩ := List.mem_map.mp hv
  rw [List.getD_eq_getElem?_getD]
  cases hk : l[k]? with
  | none => exact hm
  | some w => exact h w (List.mem_of_getElem? hk)

/-! ### The ranges as propositions -/

/-- The four channels of an endpoint are in their format's range (R30). -/
def Quad.InRange (f : Fmt) (q : Quad) : Prop :=
  channelInRange f q.r = true ∧ channelInRange f q.g = true ∧ channelInRange f q.b = true ∧ channelInRange f q.a = true

/-- The working registers but for the cursor are in the ranges of R30. -/
structure WorkRegs.InRange (f : Fmt) (r : WorkRegs) : Prop where
  code : r.code ≤ codeLimit f
  shape : r.shape < 64
  rot : r.rot < 4
  imode : r.imode < 2
  pbits : ∀ p ∈ r.pbits, p < 2
  w1 : ∀ w ∈ r.w1, w < 16
  w2 : ∀ w ∈ r.w2, w < 16
  ends : ∀ q ∈ r.ends, q.InRange f

theorem Activation.inRange_iff (a : Activation) : a.inRange = true ↔ a.regs.cur ≤ 128 ∧ a.regs.InRange a.fmt := by
  simp only [Activation.inRange, Bool.and_eq_true, decide_eq_true_eq, List.all_eq_true, and_assoc]
  exact ⟨fun ⟨hcur, h1, h2, h3, h4, h5, h6, h7, h8⟩ => ⟨hcur, h1, h2, h3, h4, h5, h6, h7, h8⟩,
    fun ⟨hcur, h1, h2, h3, h4, h5, h6, h7, h8⟩ => ⟨hcur, h1, h2, h3, h4, h5, h6, h7, h8⟩⟩

/-- The start values are in range for every format (R411). -/
theorem WorkRegs.start_inRange (f : Fmt) : WorkRegs.start.InRange f := by
  have hzero : channelInRange f 0 = true := by cases f <;> rfl
  refine ⟨Nat.zero_le _, by decide, by decide, by decide, by decide, by decide, by decide, fun q hq => ?_⟩
  rw [List.eq_of_mem_replicate hq]
  exact ⟨hzero, hzero, hzero, hzero⟩

/-- Endpoints in range written over the first of the registers leave all of them in range. -/
theorem append_drop_inRange {f : Fmt} {new old : List Quad} (hnew : ∀ q ∈ new, q.InRange f) (hold : ∀ q ∈ old, q.InRange f)
    (n : Nat) : ∀ q ∈ new ++ old.drop n, q.InRange f :=
  List.forall_mem_append.mpr ⟨hnew, fun q hq => hold q (List.mem_of_mem_drop hq)⟩

/-! ### The fields of a BC6H block -/

/-- The width of a header field's register: 16 bits hold any endpoint field, 5 the shape and the code (R30, R113). -/
def tagWidth : Bc6hTag → Nat
  | .m => 5
  | .d => 5
  | _ => 16

/-- The fields fit the registers they are read into. -/
structure Bc6h.FieldsInRange (f : Bc6hFields) : Prop where
  header : ∀ t, f.get 0 t < 2 ^ tagWidth t
  idx : ∀ v ∈ f.idx, v < 16

/-- Setting a bit writes its own field alone, and the mode bits are no field (R113). -/
theorem get_setBit (f : Bc6hFields) (t : Bc6hTag) (j : Nat) (t' : Bc6hTag) :
    (f.setBit t j).get 0 t' = if t' = t ∧ t ≠ .m then f.get 0 t' ||| 1 <<< j else f.get 0 t' := by
  cases t <;> cases t' <;> rfl

/-- Setting a bit within its field's width keeps every field within its width. -/
theorem get_setBit_lt {f : Bc6hFields} {t : Bc6hTag} {j : Nat} (hj : j < tagWidth t)
    (h : ∀ t', f.get 0 t' < 2 ^ tagWidth t') (t' : Bc6hTag) : (f.setBit t j).get 0 t' < 2 ^ tagWidth t' := by
  rw [get_setBit]
  split
  next ht =>
    obtain ⟨rfl, -⟩ := ht
    rw [Nat.shiftLeft_eq, Nat.one_mul]
    exact Nat.or_lt_two_pow (h t') (Nat.pow_lt_pow_right (by decide) hj)
  next => exact h t'

/-- The scatter loop keeps every header field within its width (R113). -/
theorem scatter_lt (blk : Block) : ∀ (es : List (Bc6hTag × Nat)) (cur : Nat) (f : Bc6hFields),
    (∀ e ∈ es, e.2 < tagWidth e.1) → (∀ t, f.get 0 t < 2 ^ tagWidth t) →
      ∀ t, (scatter blk cur es f).get 0 t < 2 ^ tagWidth t
  | [], _, _, _, h => h
  | (t, j) :: es, cur, f, he, h => by
    rw [List.forall_mem_cons] at he
    refine scatter_lt blk es (cur + 1) _ he.2 ?_
    split
    · exact get_setBit_lt he.1 h
    · exact h

/-- The map of every mode scatters within the widths (R114 to R127). -/
theorem bc6hDesc_width (code : Nat) : ∀ e ∈ bc6hDesc code, e.2 < tagWidth e.1 := by
  unfold bc6hDesc bc6hRuns
  split <;> decide

theorem Bc6h.zero_inRange : Bc6h.FieldsInRange .zero :=
  ⟨fun t => by cases t <;> decide, by simp [Bc6hFields.zero]⟩

/-- The greatest parameters of a valid BC6H mode (R36). -/
theorem bc6hInfo_bounds {code : Nat} {i : Bc6hInfo} (h : Rom.bc6hInfo code = some i) :
    i.ib ≤ 4 ∧ ∀ p ∈ [i.a0, i.b0, i.a1, i.b1], p.r ≤ 16 ∧ p.g ≤ 16 ∧ p.b ≤ 16 := by
  unfold Rom.bc6hInfo at h
  split at h <;> cases h <;> decide

theorem bc6hParse_inRange (code cur : Nat) {i : Bc6hInfo} (blk : Block) (hib : i.ib ≤ 4) :
    Bc6h.FieldsInRange (bc6hParse code cur i blk) := by
  refine ⟨fun t => ?_, getList_lt blk _ fun w hw => (indexWidths_le _ _ _ w hw).trans hib⟩
  have h := scatter_lt blk ((bc6hDesc code).drop cur) cur .zero
    (fun e he => bc6hDesc_width code e (List.mem_of_mem_drop he)) Bc6h.zero_inRange.header t
  cases t <;> exact h

/-- A BC6H block's instruction has a code of R112 and fields in range. -/
theorem blockForm_decodeBc6hBlock {signed : Bool} {layout : Layout} {blk : Block} {i : Instr}
    (h : decodeBc6hBlock signed layout blk = .ok i) :
    ∃ code f, code ≤ 31 ∧ Bc6h.FieldsInRange f ∧ blockForm i = some (.bc6h code signed layout f) := by
  unfold decodeBc6hBlock at h
  split at h
  split at h
  next info hinfo =>
    have hf := fun code cur => bc6hParse_inRange code cur blk (bc6hInfo_bounds hinfo).1
    unfold bc6hInstr at h
    split at h <;> cases h <;> exact ⟨_, _, by decide, hf _ _, rfl⟩
  next =>
    unfold bc6hReservedInstr at h
    split at h <;> cases h <;> exact ⟨_, _, by decide, Bc6h.zero_inRange, rfl⟩

/-! ### The endpoints of a BC6H block -/

theorem channelInRange_bc6h (signed : Bool) (layout : Layout) (c : Int) :
    channelInRange (.bc6h signed layout) c = true ↔ -32768 ≤ c ∧ c ≤ 65535 := by
  simp [channelInRange]

/-- An n-bit two's-complement value of at most 16 bits is that of a 16-bit register (R302). -/
theorem sext_range {n : Nat} (hn : n ≤ 16) (v : Int) : -32768 ≤ Color.sext n v ∧ Color.sext n v ≤ 65535 := by
  have hpos : (0 : Int) < (2 ^ n : Nat) := by positivity
  have h0 := Int.emod_nonneg v hpos.ne'
  have h1 := Int.emod_lt_of_pos v hpos
  unfold Color.sext
  interval_cases n <;> omega

theorem rebaseChannel_range (signed : Bool) {p : Nat} (hp : p ≤ 16) (base e : Int) :
    -32768 ≤ Bc6h.rebaseChannel signed p base e ∧ Bc6h.rebaseChannel signed p base e ≤ 65535 := by
  unfold Bc6h.rebaseChannel
  dsimp only
  split
  · exact sext_range hp _
  · have hpow : ((2 ^ p : Nat) : Int) ≤ (2 ^ 16 : Nat) := by exact_mod_cast Nat.pow_le_pow_right (by decide) hp
    have hpos : (0 : Int) < (2 ^ p : Nat) := by positivity
    have h0 := Int.emod_nonneg (e + base) hpos.ne'
    have h1 := Int.emod_lt_of_pos (e + base) hpos
    omega

section

variable {signed' : Bool} {layout : Layout}

theorem stored_inRange {v : Rgb} (h : v.r < 2 ^ 16 ∧ v.g < 2 ^ 16 ∧ v.b < 2 ^ 16) :
    (Bc6h.stored v).InRange (.bc6h signed' layout) := by
  simp only [Quad.InRange, channelInRange_bc6h, Bc6h.stored]
  omega

theorem signExtend_inRange {p : Rgb} (hp : p.r ≤ 16 ∧ p.g ≤ 16 ∧ p.b ≤ 16) {q : Quad}
    (hq : q.InRange (.bc6h signed' layout)) : (Bc6h.signExtend p q).InRange (.bc6h signed' layout) := by
  simp only [Quad.InRange, channelInRange_bc6h] at hq ⊢
  exact ⟨sext_range hp.1 _, sext_range hp.2.1 _, sext_range hp.2.2 _, hq.2.2.2⟩

theorem rebase_inRange (signed : Bool) {p : Rgb} (hp : p.r ≤ 16 ∧ p.g ≤ 16 ∧ p.b ≤ 16) (base : Quad) {q : Quad}
    (hq : q.InRange (.bc6h signed' layout)) : (Bc6h.rebase signed p base q).InRange (.bc6h signed' layout) := by
  simp only [Quad.InRange, channelInRange_bc6h] at hq ⊢
  exact ⟨rebaseChannel_range signed hp.1 _ _, rebaseChannel_range signed hp.2.1 _ _,
    rebaseChannel_range signed hp.2.2 _ _, hq.2.2.2⟩

/-- R203 to R205 keep every endpoint channel within −32768..65535. -/
theorem endpoints_inRange {code : Nat} {i : Bc6hInfo} (hi : Rom.bc6hInfo code = some i) (signed : Bool) {f : Bc6hFields}
    (hf : Bc6h.FieldsInRange f) : ∀ q ∈ Bc6h.endpoints i signed f, q.InRange (.bc6h signed' layout) := by
  obtain ⟨-, hprec⟩ := bc6hInfo_bounds hi
  simp only [List.forall_mem_cons] at hprec
  obtain ⟨ha0, hb0, ha1, hb1, -⟩ := hprec
  have hrelative : ∀ region p v, p.r ≤ 16 ∧ p.g ≤ 16 ∧ p.b ≤ 16 → v.r < 2 ^ 16 ∧ v.g < 2 ^ 16 ∧ v.b < 2 ^ 16 →
      (Bc6h.relative i signed region p (Bc6h.base i signed f.w) v).InRange (.bc6h signed' layout) := by
    intro region p v hp hv
    have hq : ∀ c : Prop, [Decidable c] →
        (if c then Bc6h.signExtend p (Bc6h.stored v) else Bc6h.stored v).InRange (.bc6h signed' layout) := by
      intro c _
      split
      · exact signExtend_inRange hp (stored_inRange hv)
      · exact stored_inRange hv
    unfold Bc6h.relative
    dsimp only
    split
    · exact rebase_inRange signed ha0 _ (hq _)
    · exact hq _
  have hbase : (Bc6h.base i signed f.w).InRange (.bc6h signed' layout) := by
    have hw := stored_inRange (signed' := signed') (layout := layout) ⟨hf.header .rW, hf.header .gW, hf.header .bW⟩
    unfold Bc6h.base
    split
    · exact signExtend_inRange ha0 hw
    · exact hw
  simp only [Bc6h.endpoints, List.forall_mem_cons]
  exact ⟨hbase, hrelative 0 _ _ hb0 ⟨hf.header .rX, hf.header .gX, hf.header .bX⟩,
    hrelative 1 _ _ ha1 ⟨hf.header .rY, hf.header .gY, hf.header .bY⟩,
    hrelative 1 _ _ hb1 ⟨hf.header .rZ, hf.header .gZ, hf.header .bZ⟩, by simp⟩

theorem bc6h_run_inRange {code : Nat} (hcode : code ≤ 31) (signed : Bool) (layout' : Layout) {f : Bc6hFields}
    (hf : Bc6h.FieldsInRange f) {r : WorkRegs} (hr : r.InRange (.bc6h signed' layout)) :
    (Bc6h.run code signed layout' f r).InRange (.bc6h signed' layout) := by
  have hshape : f.d < 64 := (hf.header .d).trans (by decide)
  unfold Bc6h.run
  split
  next => exact { hr with code := hcode }
  next i hi =>
    have hends := append_drop_inRange (endpoints_inRange hi signed hf) hr.ends 4
    have hw1 := map_getD_lt (by decide) hf.idx 16
    dsimp only
    split
    · exact { hr with code := hcode, shape := hshape, w1 := hw1, ends := hends }
    · exact { hr with code := hcode, shape := hshape, w1 := hw1, ends := hends }

end

/-! ### A BC7 block -/

/-- The fields fit the registers they are read into; an endpoint's stored channels are expanded before they are kept. -/
structure Bc7.FieldsInRange (f : Bc7Fields) : Prop where
  shape : f.shape < 64
  rot : f.rot < 4
  imode : f.imode < 2
  pbits : ∀ p ∈ f.pbits, p < 2
  w1 : ∀ w ∈ f.w1, w < 16
  w2 : ∀ w ∈ f.w2, w < 16

theorem bc7Parse_inRange {mode : Nat} {i : Bc7Info} (hi : Rom.bc7Info mode = some i) (blk : Block) :
    Bc7.FieldsInRange (bc7Parse mode i blk) := by
  obtain ⟨-, -, hpb, hrb, himb, hip, hip2⟩ := bc7Info_bounds hi
  have hbits : ∀ (cur : Nat) {n m : Nat}, n ≤ m → (Bits.getBits blk cur n).1 < 2 ^ m := fun cur n m h =>
    (Bits.getBits_lt blk cur n).trans_le (Nat.pow_le_pow_right (by decide) h)
  unfold bc7Parse
  exact ⟨hbits _ hpb, hbits _ hrb, hbits _ himb,
    getList_lt (n := 1) blk _ fun w hw => (List.eq_of_mem_replicate hw).le,
    getList_lt (n := 4) blk _ fun w hw => (indexWidths_le _ _ _ w hw).trans hip,
    getList_lt (n := 4) blk _ fun w hw => (secondaryWidths_le _ w hw).trans hip2⟩

/-- A BC7 block's instruction has a mode up to 8 and fields in range. -/
theorem blockForm_decodeBc7Block (blk : Block) :
    ∃ mode f, mode ≤ 8 ∧ Bc7.FieldsInRange f ∧ blockForm (decodeBc7Block blk) = some (.bc7 mode f) := by
  unfold decodeBc7Block
  dsimp only
  split
  next => exact ⟨8, _, le_rfl, ⟨by decide, by decide, by decide, by simp, by simp, by simp⟩, rfl⟩
  next i hi =>
    have hf := bc7Parse_inRange hi blk
    split <;> exact ⟨_, _, by decide, hf, rfl⟩

/-- The expanded channel is a byte (R308). -/
theorem unq8_lt (c p : Nat) : Color.unq8 c p < 256 := by
  have hlow : (c <<< (8 - p)) &&& 0xFF < 2 ^ 8 := Nat.and_lt_two_pow _ (by decide)
  unfold Color.unq8
  exact Nat.or_lt_two_pow hlow ((Nat.shiftRight_le _ p).trans_lt hlow)

theorem endpointChannel_inRange (prec precP pbit c : Nat) :
    channelInRange .bc7 (Bc7.endpointChannel prec precP pbit c) = true := by
  have hlt : Bc7.endpointChannel prec precP pbit c < 256 := by
    unfold Bc7.endpointChannel
    dsimp only
    split
    · decide
    · exact unq8_lt _ _
  simp only [channelInRange, Bool.and_eq_true, decide_eq_true_eq]
  omega

theorem endpoint_inRange (i : Bc7Info) (f : Bc7Fields) (e : Nat) : (Bc7.endpoint i f e).InRange .bc7 :=
  ⟨endpointChannel_inRange _ _ _ _, endpointChannel_inRange _ _ _ _, endpointChannel_inRange _ _ _ _,
    endpointChannel_inRange _ _ _ _⟩

theorem bc7_run_inRange {mode : Nat} (hmode : mode ≤ 8) {f : Bc7Fields} (hf : Bc7.FieldsInRange f) {r : WorkRegs}
    (hr : r.InRange .bc7) : (Bc7.run mode f r).InRange .bc7 := by
  unfold Bc7.run
  split
  next => exact { hr with code := le_rfl }
  next i hi =>
    have hends : ∀ q ∈ (List.range (2 * (i.pc + 1))).map (Bc7.endpoint i f), q.InRange .bc7 := by
      intro q hq
      obtain ⟨e, -, rfl⟩ := List.mem_map.mp hq
      exact endpoint_inRange i f e
    have hregs := append_drop_inRange hends hr.ends (2 * (i.pc + 1))
    have hpbits := map_getD_lt (by decide) hf.pbits 6
    have hw1 := map_getD_lt (by decide) hf.w1 16
    have hw2 := map_getD_lt (by decide) hf.w2 16
    dsimp only
    split
    · exact ⟨hmode, hf.shape, hf.rot, hf.imode, hpbits, hw1, hw2, hregs⟩
    · exact ⟨hmode, hf.shape, hf.rot, hf.imode, hpbits, hw1, hw2, hregs⟩

/-! ### Every step -/

/-- The decoder keeps the registers in range: a block's fields are read within their widths, and `OtherDecoder` sets none of
them. -/
theorem Activation.Decodes.inRange {a : Activation} {r : WorkRegs} (h : a.Decodes r) (ha : a.regs.InRange a.fmt) :
    r.InRange a.fmt := by
  cases h with
  | other hfmt => exact ⟨ha.code, ha.shape, ha.rot, ha.imode, ha.pbits, ha.w1, ha.w2, ha.ends⟩
  | @block sp i b hsp hdec hform =>
    cases hf : a.fmt with
    | other format => rw [hf] at hsp; cases hsp
    | bc6h signed layout =>
      rw [hf] at hsp ha
      cases hsp
      obtain ⟨code, f, hcode, hfields, hb⟩ := blockForm_decodeBc6hBlock (decodeBc6hBlock_of_decodeBytes hdec)
      cases hform.symm.trans hb
      exact bc6h_run_inRange hcode signed layout hfields ha
    | bc7 =>
      rw [hf] at hsp ha
      cases hsp
      cases eq_decodeBc7Block_of_decodeBytes hdec
      obtain ⟨mode, f, hmode, hfields, hb⟩ := blockForm_decodeBc7Block (blockOfBytes a.bytes)
      cases hform.symm.trans hb
      exact bc7_run_inRange hmode hfields ha

/-- Being in shape and in range is stable: the cursor's bound is that of the shape. -/
theorem stable_inRange : StableOfActivations fun a => a.ok = true ∧ a.inRange = true where
  front := fun h => by
    refine ⟨frontEnd_ok h, (Activation.inRange_iff _).mpr ?_⟩
    obtain ⟨-, hregs, -⟩ := frontEnd_fresh h
    rw [hregs]
    exact ⟨by decide, WorkRegs.start_inRange _⟩
  raced := fun h => h
  bytes := fun h hQ => ⟨Activation.ok_bytes h hQ.1, by obtain ⟨bytes, -, rfl⟩ := h; exact hQ.2⟩
  decode := fun hQ hphase hdec =>
    have ⟨hshaped, _⟩ := hdec.shaped (Activation.shaped_of_ok hQ.1)
    ⟨stable_ok.decode hQ.1 hphase hdec,
      (Activation.inRange_iff _).mpr ⟨hshaped.cur, hdec.inRange ((Activation.inRange_iff _).mp hQ.2).2⟩⟩

/-- Settles O48: every activation is in shape and in range before the step, and so after it. -/
theorem stepKeepsRanges : Obligations.StepKeepsRanges := by
  intro s t hinv hrange h a ha
  obtain ⟨-, hok⟩ := (State.inv_iff s).mp hinv
  exact (step_keeps_activations stable_inRange h (fun x hx => ⟨hok x hx, hrange x hx⟩) a ha).2

end Sys2Proof.Machine


/-! PROOFS. What a block of either format decodes to: the decoders' guards let every read through, so the status is OK, and
every entry written has the size of its layout (R215, R275). -/

namespace Sys2Proof.Machine

/-! ### The guards -/

/-- Reads that end within the block pass the guard of R274. -/
theorem guardReads_of_sum_le : ∀ (ns : List Nat) (cur : Nat), cur + ns.sum ≤ 128 → guardReads cur ns = (cur + ns.sum, true)
  | [], _, _ => rfl
  | n :: ns, cur, h => by
    rw [List.sum_cons, ← Nat.add_assoc] at h
    have hfits : overruns cur n = false := by simp only [overruns, decide_eq_false_iff_not]; omega
    rw [guardReads, hfits, List.sum_cons, ← Nat.add_assoc]
    exact guardReads_of_sum_le ns (cur + n) h

/-- Index fields that end within the block, with values in range, pass the guards of R213 and R207: each gives its texel. -/
theorem Bc6h.pixels_of_sum_le (limit : Nat) (px : Nat → Nat → Texel) : ∀ (ns is : List Nat) (cur k : Nat),
    ns.length = is.length → cur + ns.sum ≤ 128 → (∀ v ∈ is, v < limit) →
      Bc6h.pixels limit px cur k ns is = (cur + ns.sum, some (is.mapIdx fun j v => px (k + j) v))
  | [], [], _, _, _, _, _ => rfl
  | n :: ns, v :: is, cur, k, hl, h, hv => by
    rw [List.sum_cons, ← Nat.add_assoc] at h
    rw [List.forall_mem_cons] at hv
    have hfits : overruns cur n = false := by simp only [overruns, decide_eq_false_iff_not]; omega
    have ih := Bc6h.pixels_of_sum_le limit px ns is (cur + n) (k + 1) (by simpa using hl) h hv.2
    simp [Bc6h.pixels, hfits, hv.1, ih, Nat.add_assoc, Nat.add_comm 1]

/-! ### BC6H -/

/-- The index fields of a valid BC6H mode end with the block, and their precision is that of the mode's range (R130, R207). -/
theorem bc6h_indices_fit {code : Nat} {i : Bc6hInfo} (h : Rom.bc6hInfo code = some i) {d : Nat} (hd : d < 32) :
    bc6hHeaderBits i.pc + (Rom.indexWidths i.pc d i.ib).sum = 128 ∧ Bc6h.indexLimit i.pc = 2 ^ i.ib := by
  have hmode : i.pc = 1 ∧ i.ib = 3 ∨ i.pc = 0 ∧ i.ib = 4 := by
    unfold Rom.bc6hInfo at h
    split at h <;> cases h <;> decide
  have htwo : ∀ d < 32, (Rom.indexWidths 1 d 3).sum = 46 := by decide +kernel
  have hone : ∀ d < 32, (Rom.indexWidths 0 d 4).sum = 63 := by decide +kernel
  rcases hmode with ⟨hpc, hib⟩ | ⟨hpc, hib⟩ <;> rw [hpc, hib]
  · exact ⟨by rw [htwo d hd]; rfl, rfl⟩
  · exact ⟨by rw [hone d hd]; rfl, rfl⟩

/-- The fields that the BC6H decoder reads from a block; a reserved block has none (R113, R128, R129). -/
def bc6hFieldsOf (blk : Block) : Bc6hFields :=
  ((Rom.bc6hInfo (bc6hModeRead blk).1).map fun i => bc6hParse (bc6hModeRead blk).1 (bc6hModeRead blk).2 i blk).getD .zero

/-- The form of a BC6H block's instruction: the code of its mode bits, and the fields read from it. -/
theorem blockForm_of_decodeBc6hBlock {signed : Bool} {layout : Layout} {blk : Block} {i : Instr}
    (h : decodeBc6hBlock signed layout blk = .ok i) :
    blockForm i = some (.bc6h (bc6hModeRead blk).1 signed layout (bc6hFieldsOf blk)) := by
  unfold decodeBc6hBlock at h
  unfold bc6hFieldsOf
  generalize bc6hModeRead blk = mode at h ⊢
  obtain ⟨code, cur⟩ := mode
  dsimp only at h ⊢
  split at h
  next info hinfo =>
    rw [hinfo]
    unfold bc6hInstr at h
    split at h <;> cases h <;> rfl
  next hinfo =>
    rw [hinfo]
    unfold bc6hReservedInstr at h
    split at h <;> cases h <;> rfl

/-- The shape read from a BC6H block has 5 bits. -/
theorem bc6hFieldsOf_shape_lt (blk : Block) : (bc6hFieldsOf blk).d < 32 := by
  unfold bc6hFieldsOf
  cases hinfo : Rom.bc6hInfo (bc6hModeRead blk).1 with
  | none => exact Nat.zero_lt_succ 31
  | some i => exact (bc6hParse_inRange _ _ blk (bc6hInfo_bounds hinfo).1).header .d

/-- The indices read from a BC6H block are within the precision of its mode. -/
theorem bc6hFieldsOf_idx_lt {blk : Block} {i : Bc6hInfo} (h : Rom.bc6hInfo (bc6hModeRead blk).1 = some i) :
    ∀ v ∈ (bc6hFieldsOf blk).idx, v < 2 ^ i.ib := by
  unfold bc6hFieldsOf
  rw [h]
  exact getList_lt blk _ (indexWidths_le _ _ _)

/-- DECODE_BC6H of fields within their widths ends at the end of the block with status OK, and writes the 16 pixels
(R200 to R211). -/
theorem bc6h_run_eq {code : Nat} {i : Bc6hInfo} (hi : Rom.bc6hInfo code = some i) (signed : Bool) (layout : Layout)
    {f : Bc6hFields} (hd : f.d < 32) (hidx : ∀ v ∈ f.idx, v < 2 ^ i.ib) (r : WorkRegs) :
    Bc6h.run code signed layout f r =
      { r with
        cur := 128, code := code, shape := f.d, ends := Bc6h.endpoints i signed f ++ r.ends.drop 4,
        w1 := (List.range 16).map fun k => f.idx.getD k 0,
        out := ((List.range 16).map fun k => f.idx.getD k 0).mapIdx fun k v =>
          Bc6h.pixel i signed layout (Bc6h.endpoints i signed f) f.d k v,
        status := .ok } := by
  obtain ⟨hsum, hlimit⟩ := bc6h_indices_fit hi hd
  have hpixels := Bc6h.pixels_of_sum_le (Bc6h.indexLimit i.pc)
    (Bc6h.pixel i signed layout (Bc6h.endpoints i signed f) f.d) (Rom.indexWidths i.pc f.d i.ib)
    ((List.range 16).map fun k => f.idx.getD k 0) (bc6hHeaderBits i.pc) 0 (by simp) hsum.le
    (hlimit ▸ map_getD_lt (Nat.two_pow_pos _) hidx 16)
  simp only [Bc6h.run, hi, hpixels, hsum, Nat.zero_add]

/-- A BC6H block decodes with status OK, to entries of the layout asked for (R211, R212, R215). -/
theorem bc6h_run_fieldsOf (blk : Block) (signed : Bool) (layout : Layout) (r : WorkRegs) :
    let r' := Bc6h.run (bc6hModeRead blk).1 signed layout (bc6hFieldsOf blk) r
    r'.status = .ok ∧ ∀ x ∈ r'.out, ∃ hr hg hb, x = layoutTexel layout hr hg hb := by
  cases hi : Rom.bc6hInfo (bc6hModeRead blk).1 with
  | none =>
    simp only [Bc6h.run, hi, true_and]
    exact fun x hx => ⟨_, _, _, List.eq_of_mem_replicate hx⟩
  | some i =>
    rw [bc6h_run_eq hi signed layout (bc6hFieldsOf_shape_lt blk) (bc6hFieldsOf_idx_lt hi)]
    refine ⟨rfl, fun x hx => ?_⟩
    obtain ⟨k, hk, rfl⟩ := List.mem_mapIdx.mp hx
    exact ⟨_, _, _, rfl⟩

/-! ### BC7 -/

/-- The fields of a valid BC7 mode end with the block, whatever its shape (R151). -/
theorem bc7_fields_fit {mode : Nat} {i : Bc7Info} (h : Rom.bc7Info mode = some i) {shape : Nat} (hshape : shape < 64) :
    mode + 1 + (Bc7.fieldWidths i shape).sum = 128 := by
  have hall : ∀ mode < 8, ∀ i ∈ Rom.bc7Info mode, ∀ shape < 64, mode + 1 + (Bc7.fieldWidths i shape).sum = 128 := by
    decide +kernel
  exact hall mode (Nat.lt_succ_of_le (bc7Info_bounds h).1) i h shape hshape

/-- DECODE_BC7 has status OK and writes RGBA8 entries, of a reserved block too (R262, R273, R275). -/
theorem bc7_run_ok (mode : Nat) {f : Bc7Fields} (hshape : f.shape < 64) (r : WorkRegs) :
    (Bc7.run mode f r).status = .ok ∧ ∀ x ∈ (Bc7.run mode f r).out, ∃ r g b a, x = .rgba8 r g b a := by
  cases hi : Rom.bc7Info mode with
  | none =>
    simp only [Bc7.run, hi]
    exact ⟨rfl, fun x hx => ⟨_, _, _, _, List.eq_of_mem_replicate hx⟩⟩
  | some i =>
    have hguard := guardReads_of_sum_le (Bc7.fieldWidths i f.shape) (mode + 1) (bc7_fields_fit hi hshape).le
    simp only [Bc7.run, hi, hguard, if_true, true_and]
    intro x hx
    obtain ⟨k, -, rfl⟩ := List.mem_map.mp hx
    exact ⟨_, _, _, _, rfl⟩

/-! ### An activation's decoder -/

theorem length_bytesOfNat : ∀ n v : Nat, (bytesOfNat n v).length = n
  | 0, _ => rfl
  | n + 1, v => congrArg Nat.succ (length_bytesOfNat n (v / 256))

/-- An entry in a BC6H layout has the layout's size (R211). -/
theorem length_bytes_layoutTexel (signed : Bool) (layout : Layout) (hr hg hb : Half) :
    (layoutTexel layout hr hg hb).bytes.length = (Fmt.bc6h signed layout).entryBytes := by
  cases layout <;> simp [layoutTexel, Texel.bytes, Fmt.entryBytes, length_bytesOfNat]

/-- A block of a BC format decodes with status OK, to entries of the format's size. -/
theorem Activation.Decodes.entries {a : Activation} {r : WorkRegs} (h : a.Decodes r) (hsp : a.fmt.space.isSome = true) :
    r.status = .ok ∧ ∀ x ∈ r.out, x.bytes.length = a.fmt.entryBytes := by
  cases h with
  | other hfmt => rw [hfmt] at hsp; cases hsp
  | @block sp i b hspace hdec hform =>
    cases hf : a.fmt with
    | other format => rw [hf] at hsp; cases hsp
    | bc6h signed layout =>
      rw [hf] at hspace
      cases hspace
      cases hform.symm.trans (blockForm_of_decodeBc6hBlock (decodeBc6hBlock_of_decodeBytes hdec))
      obtain ⟨hstatus, hout⟩ := bc6h_run_fieldsOf (blockOfBytes a.bytes) signed layout a.regs
      refine ⟨hstatus, fun x hx => ?_⟩
      obtain ⟨hr, hg, hb, rfl⟩ := hout x hx
      exact length_bytes_layoutTexel signed layout hr hg hb
    | bc7 =>
      rw [hf] at hspace
      cases hspace
      cases eq_decodeBc7Block_of_decodeBytes hdec
      obtain ⟨mode, f, -, hfields, hb⟩ := blockForm_decodeBc7Block (blockOfBytes a.bytes)
      cases hform.symm.trans hb
      obtain ⟨hstatus, hout⟩ := bc7_run_ok mode hfields.shape a.regs
      refine ⟨hstatus, fun x hx => ?_⟩
      obtain ⟨r, g, b, a, rfl⟩ := hout x hx
      rfl

theorem Fmt.texelCount_of_space {fmt : Fmt} (h : fmt.space.isSome = true) : fmt.texelCount = 16 := by
  cases fmt with
  | bc6h | bc7 => rfl
  | other format => cases h

/-- The entries a block of a BC format decodes to fill the output buffer of a DECODE (R86). -/
theorem Activation.Decodes.length_outBytes {a : Activation} {r : WorkRegs} (h : a.Decodes r)
    (hsp : a.fmt.space.isSome = true) (ha : a.regs.Shaped) : (r.out.flatMap Texel.bytes).length = a.fmt.outBytes := by
  have hsizes : r.out.map (fun x => x.bytes.length) = r.out.map fun _ => a.fmt.entryBytes :=
    List.map_congr_left (h.entries hsp).2
  rw [List.length_flatMap, hsizes, List.map_const', List.sum_replicate, (h.shaped ha).2, Fmt.texelCount_of_space hsp]
  rfl

/-- An activation in shape and about to decode has registers to decode to: every captured block decodes (R129, R150). -/
theorem Activation.exists_decodes {a : Activation} (h : a.ok = true) (hphase : a.phase = .decoding) : ∃ r, a.Decodes r := by
  have hblock : ∀ {sp i}, a.fmt.space = some sp → decodeBytes sp Operands.zero a.bytes = .ok i → ∃ r, a.Decodes r := by
    intro sp i hsp hdec
    obtain ⟨b, hb⟩ := exists_blockForm (isRequest_of_decodeBytes hsp hdec)
    exact ⟨_, .block hsp hdec hb⟩
  have hb := Activation.hasBlock_of_decoding h hphase
  simp only [Activation.ok, hb, if_true, Bool.and_eq_true] at h
  obtain ⟨⟨-, hbytes, -⟩, -⟩ := h
  cases hf : a.fmt with
  | other format => exact ⟨_, .other hf⟩
  | bc6h signed layout =>
    have hlen : a.bytes.length = 16 := by simpa [hf] using hbytes
    obtain ⟨i, hi⟩ := decodeBc6hBlock_ok signed layout (blockOfBytes a.bytes)
    exact hblock (sp := .bc6h signed layout) (by rw [hf]; rfl) (by simpa [decodeBytes, hlen] using hi)
  | bc7 =>
    have hlen : a.bytes.length = 16 := by simpa [hf] using hbytes
    exact hblock (sp := .bc7) (by rw [hf]; rfl) (by simp only [decodeBytes, hlen]; rfl)

/-- The decoder of the running activation sets the registers that the activation decodes to. -/
theorem Activation.Decodes.runDecoder_eq {a : Activation} {r : WorkRegs} (h : a.Decodes r) {s : State}
    {rest : List Activation} (hs : s.active = a :: rest) :
    runDecoder a s = .next { s with active := { a with regs := r, phase := .returning } :: rest } := by
  suffices hg : ∃ g : WorkRegs → WorkRegs, g a.regs = r ∧ runDecoder a s = s.decodeInto g by
    obtain ⟨g, rfl, hrun⟩ := hg
    rw [hrun, State.decodeInto_cons s a rest g hs]
  cases h with
  | @other format hfmt => exact ⟨runOther format a.bytes, rfl, by simp only [runDecoder, hfmt]⟩
  | @block sp i b hsp hdec hform =>
    have hrun : runBlockInstr i s = s.decodeInto b.run := by
      rw [runBlockInstr_eq_exec i s (isRequest_of_decodeBytes hsp hdec), exec_of_blockForm hform]
    refine ⟨b.run, rfl, ?_⟩
    cases hf : a.fmt with
    | other format => rw [hf] at hsp; cases hsp
    | bc6h | bc7 => rw [hf] at hsp; cases hsp; simp only [runDecoder, hf, hdec, hrun]

end Sys2Proof.Machine

/-! PROOFS. The requests as one operation: what DECODE returns, and what the requests leave unchanged. -/

namespace Sys2Proof.Machine

/-! ### An operation from its start to its return -/

/-- The state beside an activation that begins: the operations in progress that share its buffer are marked (R414). -/
def State.beside (s : State) (a : Activation) : State :=
  { s with active := s.active.map fun b => if a.shares b then { b with raced := true } else b }

theorem State.begin_active (s : State) (a : Activation) :
    (s.begin a).active = { a with raced := s.active.any a.shares } :: (s.beside a).active := rfl

/-- Neither the mark nor the phase has a part in what an activation decodes to. -/
theorem Activation.decodes_raced {a : Activation} {r : WorkRegs} {raced : Bool} :
    Activation.Decodes { a with raced := raced } r ↔ a.Decodes r := by
  constructor <;> (intro h; cases h with
    | block hsp hdec hform => exact .block hsp hdec hform
    | other hfmt => exact .other hfmt)

/-- The registers with which an activation in progress returns: those it has, or those its decoder will set. -/
def Activation.Yields (a : Activation) (r : WorkRegs) : Prop :=
  (a.phase = .returning ∧ r = a.regs) ∨ (a.phase = .decoding ∧ a.Decodes r)

/-- The running activation's next step, when its decoder is to run. -/
theorem runActive_of_decodes {s : State} {a : Activation} {rest : List Activation} {r : WorkRegs}
    (hs : s.active = a :: rest) (hphase : a.phase = .decoding) (h : a.Decodes r) :
    runActive s = .next { s with active := { a with regs := r, phase := .returning } :: rest } := by
  rw [← h.runDecoder_eq hs]
  simp only [runActive, hs, hphase]

/-- The running activation's next step, when its result is to be returned. -/
theorem runActive_of_returning {s : State} {a : Activation} {rest : List Activation} (hs : s.active = a :: rest)
    (hphase : a.phase = .returning) : runActive s = .next (State.deliverTo { s with active := rest } a) := by
  rw [← State.deliver_cons s a rest hs]
  simp only [runActive, hs, hphase]

/-- An operation run whole begins, and returns beside the others with the registers its activation yields. -/
theorem State.operate_of_yields {a : Activation} {r : WorkRegs} (h : a.Yields r) (s : State) :
    s.operate a = .next ((s.beside a).deliverTo { a with raced := s.active.any a.shares, regs := r, phase := .returning }) := by
  unfold State.operate
  rcases h with ⟨hphase, rfl⟩ | ⟨hphase, hdec⟩
  · have hret : { a with raced := s.active.any a.shares, regs := a.regs, phase := .returning } =
        { a with raced := s.active.any a.shares } := by rw [← hphase]
    rw [hret, hphase]
    exact runActive_of_returning (s.begin_active a) hphase
  · have hrun := runActive_of_decodes (s.begin_active a) hphase (Activation.decodes_raced.mpr hdec)
    simp only [hphase, complete, hrun]
    exact runActive_of_returning rfl rfl

/-- An operation that completes has yielded some registers. -/
theorem State.operate_next {s t : State} {a : Activation} (h : s.operate a = .next t) :
    ∃ r, a.Yields r ∧
      t = (s.beside a).deliverTo { a with raced := s.active.any a.shares, regs := r, phase := .returning } := by
  suffices hr : ∃ r, a.Yields r by
    obtain ⟨r, hr⟩ := hr
    rw [State.operate_of_yields hr] at h
    cases h
    exact ⟨r, hr, rfl⟩
  cases hphase : a.phase with
  | returning => exact ⟨a.regs, .inl ⟨hphase, rfl⟩⟩
  | decoding =>
    simp only [State.operate, hphase, complete, runActive, State.begin_active] at h
    split at h
    next u hu =>
      obtain ⟨r, hr, -⟩ := runDecoder_next (s.begin_active a) hu
      exact ⟨r, .inr ⟨hphase, Activation.decodes_raced.mp hr⟩⟩
    next => cases h
    next => cases h

/-- A request with an activation to begin operates it. -/
theorem exec_of_frontEnd {s : State} {i : Instr} {a : Activation} (h : frontEnd s i = some a) : exec i s = s.operate a := by
  have hreq : isRequest i = true := by
    cases i with
    | decodeBc6h | decodeBc7 | load | sample => rfl
    | _ => cases h
  rw [exec_request hreq, h]
  rfl

/-! ### DECODE completes (R200, R260, R416) -/

/-- A DECODE that no other operation is beside stores the entries its block decodes to and returns OK. -/
theorem decode_completes {s : State} {fmt : Fmt} {blk : Nat} {out : OutRef} {r : WorkRegs} (hactive : s.active = [])
    (hmem : Memory.wf s.mem = true) (hdec : (decodeFront s fmt blk out).Decodes r) (hstatus : r.status = .ok)
    (hlen : (r.out.flatMap Texel.bytes).length = 16 * fmt.entryBytes) :
    ∃ m, s.operate (decodeFront s fmt blk out) = .next { Spec.answered s (.decoded .ok) with mem := m } ∧
      Memory.wf m = true ∧
      ∀ c, Memory.read m c =
        if out.addr ≤ c ∧ c < out.addr + 16 * fmt.entryBytes then (r.out.flatMap Texel.bytes).getD (c - out.addr) 0
        else Memory.read s.mem c := by
  have hbeside : s.beside (decodeFront s fmt blk out) = s := by
    simp only [State.beside, hactive, List.map_nil]
    rw [← hactive]
  have hstore := s.storeBytes_eq out.addr (r.out.flatMap Texel.bytes) (by simp [hactive])
  refine ⟨(s.storeBytes out.addr (r.out.flatMap Texel.bytes)).mem, ?_, s.storeBytes_wf _ _ hmem,
    fun c => hlen ▸ s.read_storeBytes _ _ c hmem⟩
  rw [State.operate_of_yields (.inr ⟨rfl, hdec⟩), hbeside, hactive]
  simp only [State.deliverTo, State.deliverDecode, decodeFront, State.activation, List.any_nil, Bool.false_eq_true, if_false,
    hstatus]
  rw [hstore]
  rfl

/-- The block instruction of an activation alone in progress sets the registers of its form. -/
theorem exec_alone {i : Instr} {b : BlockForm} (h : blockForm i = some b) (s : State) (a : Activation) :
    exec i (Spec.alone s a) = .next (Spec.alone s { a with regs := b.run a.regs, phase := .returning }) := by
  rw [exec_of_blockForm h]; rfl

/-- What the activation of a DECODE decodes to: by its captured block's instruction, with status OK, and 16 entries of the
format's size. -/
theorem decodeFront_decodes {s : State} {i : Instr} {fmt : Fmt} {blk : Nat} {out : OutRef} {sp : Space}
    (hfront : frontEnd s i = some (decodeFront s fmt blk out)) (hsp : fmt.space = some sp) :
    ∃ j b, decodeBytes sp Operands.zero (Memory.readBytes s.mem blk 16) = .ok j ∧ blockForm j = some b ∧
      (decodeFront s fmt blk out).Decodes (b.run WorkRegs.start) ∧
      (b.run WorkRegs.start).out.length = 16 ∧ (b.run WorkRegs.start).status = .ok ∧
      ((b.run WorkRegs.start).out.flatMap Texel.bytes).length = 16 * fmt.entryBytes := by
  have hsome : (decodeFront s fmt blk out).fmt.space.isSome = true := Option.isSome_of_eq_some hsp
  obtain ⟨r, hr⟩ := Activation.exists_decodes (frontEnd_ok hfront) rfl
  have hlen := hr.length_outBytes hsome WorkRegs.start_shaped
  have hcount := (hr.shaped WorkRegs.start_shaped).2.trans (Fmt.texelCount_of_space hsome)
  have hstatus := (hr.entries hsome).1
  cases hr with
  | other hfmt => rw [hfmt] at hsome; cases hsome
  | block hspace hdec hform =>
    cases hspace.symm.trans hsp
    exact ⟨_, _, hdec, hform, .block hspace hdec hform, hcount, hstatus, hlen⟩

/-- Settles O28: the block's instruction alone gives the registers, and the operation stores their entries. -/
theorem decodeBc6hCompletes : Obligations.DecodeBc6hCompletes := by
  intro signed layout blk out s hout hactive hmem
  have hfront : frontEnd s (.decodeBc6h signed layout blk out) = some (decodeFront s (.bc6h signed layout) blk out) :=
    if_pos (decide_eq_true hout)
  obtain ⟨i, b, hdec, hform, hdecodes, hlen, hstatus, hbytes⟩ := decodeFront_decodes hfront rfl
  obtain ⟨m, hrun, hwf, hread⟩ := decode_completes hactive hmem hdecodes hstatus hbytes
  exact ⟨i, b.run WorkRegs.start, m, decodeBc6hBlock_of_decodeBytes hdec, exec_alone hform s _, hlen, hstatus,
    (exec_of_frontEnd hfront).trans hrun, hwf, hbytes, hread⟩

/-- Settles O29: the block's instruction alone gives the registers, and the operation stores their entries. -/
theorem decodeBc7Completes : Obligations.DecodeBc7Completes := by
  intro blk out s hout hactive hmem
  have hfront : frontEnd s (.decodeBc7 blk out) = some (decodeFront s .bc7 blk out) := if_pos (decide_eq_true hout)
  obtain ⟨i, b, hdec, hform, hdecodes, hlen, hstatus, hbytes⟩ := decodeFront_decodes hfront rfl
  obtain ⟨m, hrun, hwf, hread⟩ := decode_completes hactive hmem hdecodes hstatus hbytes
  cases eq_decodeBc7Block_of_decodeBytes hdec
  exact ⟨b.run WorkRegs.start, m, exec_alone hform s _, hlen, hstatus, (exec_of_frontEnd hfront).trans hrun, hwf, hbytes,
    hread⟩

/-! ### The frame of DECODE (R82, R86, R393) -/

/-- An operation just returned has left the registers of the others as they are. -/
theorem State.deliverTo_regs (s : State) (a : Activation) : (s.deliverTo a).active.map (·.regs) = s.active.map (·.regs) := by
  have h := s.deliverTo_active a
  generalize s.active = as at h ⊢
  generalize (s.deliverTo a).active = as' at h ⊢
  induction h with
  | nil => rfl
  | cons hx _ ih =>
    obtain ⟨bytes, -, rfl⟩ := hx
    exact congrArg (_ :: ·) ih

theorem State.beside_regs (s : State) (a : Activation) : (s.beside a).active.map (·.regs) = s.active.map (·.regs) := by
  simp only [State.beside, List.map_map]
  exact List.map_congr_left fun b _ => by simp only [Function.comp_apply]; split <;> rfl

@[simp] theorem length_freeBytes (first n : Nat) : (freeBytes first n).length = n := by simp [freeBytes]

@[simp] theorem length_freeSamples (first n : Nat) : (freeSamples first n).length = n := by simp [freeSamples]

/-- A DECODE that returns, raced or not, writes no byte outside its entries. -/
theorem State.read_deliverTo_decode_other {s : State} {a : Activation} {out : OutRef} (hclient : a.client = .decode out)
    (hlen : (a.regs.out.flatMap Texel.bytes).length = a.fmt.outBytes) {c : Nat}
    (hc : c < out.addr ∨ out.addr + a.fmt.outBytes ≤ c) : Memory.read (s.deliverTo a).mem c = Memory.read s.mem c := by
  simp only [State.deliverTo, hclient, State.deliverDecode]
  split
  · exact State.read_storeBytes_other _ _ _ c (by rwa [length_freeBytes])
  · exact State.read_storeBytes_other _ _ _ c (by rwa [hlen])

theorem State.deliverTo_decode_scratch {s : State} {a : Activation} {out : OutRef} (hclient : a.client = .decode out) :
    (s.deliverTo a).scratch = s.scratch := by
  simp [State.deliverTo, hclient]

/-- A DECODE run whole, raced or not, stores within its entries, and keeps the scratch space. -/
theorem operate_decodeFront_frame {s t : State} {fmt : Fmt} {blk : Nat} {out : OutRef} (hsp : fmt.space.isSome = true)
    (h : s.operate (decodeFront s fmt blk out) = .next t) :
    (∀ c, c < out.addr ∨ out.addr + fmt.outBytes ≤ c → Memory.read t.mem c = Memory.read s.mem c) ∧
      t.scratch = s.scratch := by
  obtain ⟨r, ⟨hphase, -⟩ | ⟨-, hdec⟩, rfl⟩ := State.operate_next h
  · cases hphase
  · exact ⟨fun c hc => State.read_deliverTo_decode_other rfl (hdec.length_outBytes hsp WorkRegs.start_shaped) hc,
      State.deliverTo_decode_scratch rfl⟩

/-- A request that completes without an activation to begin has changed nothing; one with it has operated it. -/
theorem exec_request_next {i : Instr} {s t : State} (hreq : isRequest i = true) (h : exec i s = .next t) :
    (frontEnd s i = none ∧ t = s) ∨ ∃ a, frontEnd s i = some a ∧ s.operate a = .next t := by
  rw [exec_request hreq] at h
  cases hf : frontEnd s i with
  | none => rw [hf] at h; cases h; exact .inl ⟨rfl, rfl⟩
  | some a => rw [hf] at h; exact .inr ⟨a, rfl, h⟩

/-- What every request keeps: the queue, the agenda, the issuer, and the registers of the other operations in progress. -/
theorem exec_request_frame {i : Instr} {s t : State} (hreq : isRequest i = true) (h : exec i s = .next t) :
    t.queue = s.queue ∧ t.agenda = s.agenda ∧ t.issuer = s.issuer ∧
      t.active.map (·.regs) = s.active.map (·.regs) := by
  rcases exec_request_next hreq h with ⟨-, rfl⟩ | ⟨a, -, hrun⟩
  · exact ⟨rfl, rfl, rfl, rfl⟩
  · obtain ⟨r, -, rfl⟩ := State.operate_next hrun
    exact ⟨State.deliverTo_queue _ _, State.deliverTo_agenda _ _, State.deliverTo_issuer _ _,
      (State.deliverTo_regs _ _).trans (s.beside_regs a)⟩

/-- Settles O41: a DECODE operates its front end's activation, which stores within its entries, or changes nothing. -/
theorem decodeFrame : Obligations.DecodeFrame := by
  intro signed layout blk out s t fmt i hi h
  have hreq : isRequest i = true := by rcases hi with ⟨rfl, -⟩ | ⟨rfl, -⟩ <;> rfl
  have hsp : fmt.space.isSome = true := by rcases hi with ⟨-, rfl⟩ | ⟨-, rfl⟩ <;> rfl
  have hfront : frontEnd s i = if out.wf then some (decodeFront s fmt blk out) else none := by
    rcases hi with ⟨rfl, rfl⟩ | ⟨rfl, rfl⟩ <;> rfl
  obtain ⟨hviews, hsamplers, hformats⟩ := exec_sameTextures h
  obtain ⟨hqueue, hagenda, hissuer, hregs⟩ := exec_request_frame hreq h
  suffices hstore : (∀ c, c < out.addr ∨ out.addr + fmt.outBytes ≤ c → Memory.read t.mem c = Memory.read s.mem c) ∧
      t.scratch = s.scratch from
    ⟨hstore.1, hstore.2, hviews, hsamplers, hformats, hqueue, hagenda, hissuer, hregs⟩
  rcases exec_request_next hreq h with ⟨-, rfl⟩ | ⟨a, ha, hrun⟩
  · exact ⟨fun _ _ => rfl, rfl⟩
  · rw [hfront] at ha
    split at ha <;> cases ha
    exact operate_decodeFront_frame hsp hrun

/-! ### The frame of LOAD and SAMPLE (R82, R84, R343, R367) -/

/-- An entry outside the ones written reads as before, whatever the scratch space's form. -/
theorem Scratch.read_writeAll_other : ∀ (m : Sparse Sample) (a : Nat) (ss : List Sample) (e : Nat),
    (e < a ∨ a + ss.length ≤ e) → Scratch.read (Scratch.writeAll m a ss) e = Scratch.read m e
  | _, _, [], _, _ => rfl
  | m, a, x :: ss, e, h => by
    rw [List.length_cons] at h
    rw [Scratch.writeAll, Scratch.read_writeAll_other (Scratch.write m a x) (a + 1) ss e (by omega)]
    exact Sparse.read_write_other Sample.none m a e x (by omega)

/-- A LOAD or SAMPLE that returns, raced or not, writes no more samples than its count, from its buffer's first entry on. -/
theorem State.deliverTo_sampler_scratch {s : State} {a : Activation} {scr : Option ScratchRef} {count : Nat}
    {entry : Option Nat} (hclient : a.client = .sampler scr count entry)
    (hlen : entry.isSome = true → a.regs.out.length = count) :
    ∃ ss, ss.length ≤ count ∧ (s.deliverTo a).scratch = scratchAfter s.scratch scr ss := by
  simp only [State.deliverTo, hclient, State.deliverSample]
  split
  · exact ⟨freeSamples (s.freeCount + 1) count, by simp, rfl⟩
  · cases entry with
    | none => exact ⟨[], Nat.zero_le _, by cases scr <;> rfl⟩
    | some k => exact ⟨a.regs.out.map sampleConvert, by simpa using (hlen rfl).le, rfl⟩

/-- The activation writes the scratch buffer named, at most n entries; with an entry to return, as many as its decoder
gives. -/
def Activation.SamplesInto (a : Activation) (scr : Option ScratchRef) (n : Nat) : Prop :=
  ∃ count entry, a.client = .sampler scr count entry ∧ count ≤ n ∧
    (entry.isSome = true → a.phase = .decoding ∧ a.regs = WorkRegs.start ∧ a.fmt.texelCount = count)

/-- The number of texels of a block of the sampler's format (R342). -/
def State.blockTexels (s : State) (smp : Nat) : Nat :=
  (geometry (s.kindOf (s.samplerView smp).format) (s.samplerView smp).format).count

theorem emptyActivation_samplesInto (s : State) (scr : Option ScratchRef) (smp : Nat) :
    (s.emptyActivation scr smp).SamplesInto scr (s.blockTexels smp) :=
  ⟨_, none, rfl, Nat.min_le_left _ _, fun h => by cases h⟩

theorem loadFront_samplesInto (s : State) (scr : Option ScratchRef) (smp : Nat) (texel : Vec3) (sel : Selector) :
    (loadFront s scr smp texel sel).SamplesInto scr (s.blockTexels smp) := by
  rcases loadFront_cases s scr smp texel sel with ⟨-, he⟩ | ⟨a, ha, he⟩ <;> rw [he]
  · exact emptyActivation_samplesInto s scr smp
  · obtain ⟨-, -, -, bytes, -, rfl⟩ := loadBlock_some s scr smp texel sel a ha
    exact ⟨_, some _, rfl, le_rfl, fun _ => ⟨rfl, rfl, texelCount_fmtOfKind _ _⟩⟩

theorem sampleFront_samplesInto (s : State) (scr : Option ScratchRef) (smp : Nat) (uv : Vec3) (sel : Selector) :
    (sampleFront s scr smp uv sel).SamplesInto scr (s.blockTexels smp) := by
  rcases sampleFront_cases s scr smp uv sel with he | ⟨texel, he⟩ <;> rw [he]
  · exact emptyActivation_samplesInto s scr smp
  · exact loadFront_samplesInto s scr smp texel sel

/-- An operation of LOAD or SAMPLE run whole writes its buffer's first entries alone. -/
theorem operate_samplesInto {s t : State} {a : Activation} {scr : Option ScratchRef} {n : Nat} (ha : a.SamplesInto scr n)
    (h : s.operate a = .next t) :
    t.mem = s.mem ∧ ∃ ss, ss.length ≤ n ∧ t.scratch = scratchAfter s.scratch scr ss := by
  obtain ⟨count, entry, hclient, hcount, hentry⟩ := ha
  obtain ⟨r, hr, rfl⟩ := State.operate_next h
  have hlen : entry.isSome = true → r.out.length = count := fun he => by
    obtain ⟨hphase, hregs, htexels⟩ := hentry he
    rcases hr with ⟨hphase', -⟩ | ⟨-, hdec⟩
    · cases hphase.symm.trans hphase'
    · exact (hdec.shaped (hregs ▸ WorkRegs.start_shaped)).2.trans htexels
  obtain ⟨ss, hss, hscratch⟩ := State.deliverTo_sampler_scratch (s := s.beside a)
    (a := { a with raced := s.active.any a.shares, regs := r, phase := .returning }) hclient hlen
  refine ⟨?_, ss, hss.trans hcount, hscratch⟩
  simp [State.deliverTo, hclient, State.beside]

/-- Settles O42: LOAD and SAMPLE operate an activation that writes at most a block's entries of the buffer named. -/
theorem loadSampleFrame : Obligations.LoadSampleFrame := by
  intro scr smp texel uv sel s s' h
  obtain ⟨i, hreq, hexec, a, ha, hrun⟩ : ∃ i, isRequest i = true ∧ exec i s = .next s' ∧
      ∃ a : Activation, a.SamplesInto scr (s.blockTexels smp) ∧ s.operate a = .next s' := by
    rcases h with h | h
    · exact ⟨_, rfl, h, _, loadFront_samplesInto s scr smp texel sel, h⟩
    · exact ⟨_, rfl, h, _, sampleFront_samplesInto s scr smp uv sel, h⟩
  obtain ⟨hviews, hsamplers, hformats⟩ := exec_sameTextures hexec
  obtain ⟨hqueue, hagenda, hissuer, hregs⟩ := exec_request_frame hreq hexec
  obtain ⟨hmem, ss, hss, hscratch⟩ := operate_samplesInto ha hrun
  refine ⟨hmem, ?_, ?_, hviews, hsamplers, hformats, hqueue, hagenda, hissuer, hregs⟩
  · rintro rfl
    exact hscratch
  · rintro r rfl e he
    have hout : e < r.base ∨ r.base + ss.length ≤ e := he.imp_right fun hle => (Nat.add_le_add_left hss _).trans hle
    rw [hscratch]
    exact Scratch.read_writeAll_other s.scratch r.base ss e hout

end Sys2Proof.Machine

/-! PROOFS. A byte that another agent writes: the memory or the surface it stands in, and the captured blocks it is read into
(R415). -/

namespace Sys2Proof.Machine

/-! ### What is read where a byte is written -/

/-- A byte of memory hits a captured byte only while the block is still read, at the byte captured from that address. -/
theorem Activation.memByte_some {x : Activation} {addr j : Nat} (h : x.memByte addr = some j) :
    x.phase = .decoding ∧ j < x.bytes.length ∧ ∃ base, x.src = .mem base ∧ addr = base + j := by
  unfold Activation.memByte at h
  split at h
  next base hsrc hphase =>
    split at h
    next hin => cases h; exact ⟨hphase, by omega, base, hsrc, by omega⟩
    next => cases h
  next => cases h

/-- The same of a byte of a surface. -/
theorem Activation.spanByte_some {x : Activation} {v : Nat} {sel : SurfaceSel} {off j : Nat}
    (h : x.spanByte v sel off = some j) :
    x.phase = .decoding ∧ j < x.bytes.length ∧ ∃ base, x.src = .span v sel base ∧ off = base + j := by
  unfold Activation.spanByte at h
  split at h
  next v' sel' base hsrc hphase =>
    split at h
    next hin =>
      obtain ⟨rfl, rfl, hin⟩ := hin
      cases h
      exact ⟨hphase, by omega, base, hsrc, by omega⟩
    next => cases h
  next => cases h

/-- What disturbing does to one captured block: it stays as it is but for the byte hit, which may be the one written. -/
theorem Disturbed.bytes {hit : Activation → Option Nat} {x : Byte} {a a' : Activation} (h : Disturbed hit x a a')
    (hlt : ∀ j, hit a = some j → j < a.bytes.length) :
    a' = { a with bytes := a'.bytes } ∧ a'.bytes.length = a.bytes.length ∧
      ∀ j : Nat, a'.bytes[j]? = a.bytes[j]? ∨ (a'.bytes[j]? = some x ∧ hit a = some j) := by
  rcases h with rfl | ⟨i, hi, rfl⟩
  · exact ⟨rfl, rfl, fun j => .inl rfl⟩
  · refine ⟨rfl, List.length_set, fun j => ?_⟩
    by_cases hij : i = j
    · subst hij
      exact .inr ⟨List.getElem?_set_self (hlt i hi), hi⟩
    · exact .inl (List.getElem?_set_ne hij)

/-- The operations in progress stay in their places when a byte is written that they may be reading, and P holds of every
captured byte it takes the place of. -/
theorem disturb_bytes {hit : Activation → Option Nat} {P : Activation → Nat → Prop}
    (hhit : ∀ {a j}, hit a = some j → j < a.bytes.length ∧ P a j) (x : Byte) (as : List Activation) (n : Nat) :
    (disturb hit x as n).1.length = as.length ∧
      ∀ (k j : Nat) (a a' : Activation), as[k]? = some a → (disturb hit x as n).1[k]? = some a' →
        a' = { a with bytes := a'.bytes } ∧ a'.bytes.length = a.bytes.length ∧
          (a'.bytes[j]? = a.bytes[j]? ∨ (a'.bytes[j]? = some x ∧ P a j)) := by
  have h := disturb_forall₂ hit x as n
  refine ⟨h.length_eq.symm, fun k j a a' ha ha' => ?_⟩
  obtain ⟨hk, rfl⟩ := List.getElem?_eq_some_iff.mp ha
  obtain ⟨hk', rfl⟩ := List.getElem?_eq_some_iff.mp ha'
  obtain ⟨hrest, hlen, hbytes⟩ := (h.get hk hk').bytes fun j hj => (hhit hj).1
  exact ⟨hrest, hlen, (hbytes j).imp_right fun ⟨hx, hj⟩ => ⟨hx, (hhit hj).2⟩⟩

/-! ### A surface with a byte written -/

/-- The first value of a key, when the values of one key are mapped by a function that keeps the default. -/
theorem lookupKey_map {α β : Type} [DecidableEq α] {d : β} {k : α} {f : β → β} (hd : f d = d) (k' : α) :
    ∀ l : List (α × β), lookupKey d k' (l.map fun e => if e.1 = k then (e.1, f e.2) else e) =
      if k' = k then f (lookupKey d k' l) else lookupKey d k' l
  | [] => by simp [lookupKey, hd]
  | (k₁, v) :: l => by
    have ih := lookupKey_map (k := k) hd k' l
    by_cases h₁ : k₁ = k
    · by_cases h₂ : k' = k₁
      · subst h₂; simp [lookupKey, h₁]
      · simp [lookupKey, h₁, ih, h₁ ▸ h₂]
    · by_cases h₂ : k' = k₁
      · subst h₂; simp [lookupKey, h₁]
      · simp [lookupKey, h₁, ih, h₂]

/-- One surface of the view has the byte set, the others are as before. -/
theorem TextureView.surface_setByte (v : TextureView) (sel : SurfaceSel) (off : Nat) (x : Byte) (sel' : SurfaceSel) :
    (v.setByte sel off x).surface sel' = if sel' = sel then (v.surface sel).set off x else v.surface sel' := by
  have h := lookupKey_map (d := []) (k := sel) (f := fun bs : List Byte => bs.set off x) rfl sel' v.surfaces
  simp only [TextureView.surface, TextureView.setByte, h]
  split
  next he => rw [he]
  next => rfl

/-- Another agent's write of a surface changes one view. -/
theorem State.view_writeSpan {s : State} (h : Sparse.wf TextureView.absent s.views = true) (v : Nat) (sel : SurfaceSel)
    (off : Nat) (x : Byte) (v' : Nat) :
    (s.writeSpan v sel off x).view v' = if v' = v then (s.view v).setByte sel off x else s.view v' := by
  split
  next he => rw [he]; exact Sparse.read_write_same _ s.views 0 v _ h
  next hne => exact Sparse.read_write_other _ s.views v v' _ hne

/-- Of a view, another agent's write of a surface changes that surface's byte alone. -/
theorem State.writeSpan_surfaces {s : State} (h : Sparse.wf TextureView.absent s.views = true) (v : Nat) (sel : SurfaceSel)
    (off : Nat) (x : Byte) (v' : Nat) :
    let t := s.writeSpan v sel off x
    (t.view v').format = (s.view v').format ∧ (t.view v').isEmpty = (s.view v').isEmpty ∧
      (t.view v').extents = (s.view v').extents ∧
      ∀ sel', (t.view v').surface sel' =
        if v' = v ∧ sel' = sel then ((s.view v).surface sel).set off x else (s.view v').surface sel' := by
  dsimp only
  rw [State.view_writeSpan h]
  by_cases hv : v' = v
  · subst hv
    simp only [if_true, true_and]
    exact ⟨rfl, rfl, rfl, TextureView.surface_setByte _ sel off x⟩
  · simp [hv]

/-- What memory reads as after one byte was written. -/
theorem Memory.read_write {m : Sparse Byte} (h : wf m = true) (addr : Nat) (x : Byte) (c : Nat) :
    read (write m addr x) c = if c = addr then x else read m c := by
  split
  next hc => rw [hc]; exact read_write_same m addr x h
  next hc => exact read_write_other m addr c x hc

/-- Settles O53: the event stores its byte, and disturbs the captured blocks that read it. -/
theorem tornBytes : Obligations.TornBytes := by
  intro s e ev x hag he
  rcases he with ⟨addr, rfl⟩ | ⟨v, sel, off, rfl⟩
  · refine ⟨_, step_cons s _ ev hag, rfl, ?_, fun _ _ _ h => (by cases h),
      disturb_bytes (hit := Activation.memByte addr) (fun h => ?_) x s.active s.freeCount⟩
    · rintro _ ⟨⟩
      exact ⟨rfl, fun hwf => Memory.read_write hwf addr x⟩
    · obtain ⟨hphase, hlt, base, hsrc, haddr⟩ := Activation.memByte_some h
      exact ⟨hlt, hphase, .inl ⟨addr, base, rfl, hsrc, haddr⟩⟩
  · refine ⟨_, step_cons s _ ev hag, rfl, fun _ h => (by cases h), ?_,
      disturb_bytes (hit := Activation.spanByte v sel off) (fun h => ?_) x s.active s.freeCount⟩
    · rintro _ _ _ ⟨⟩
      exact ⟨rfl, fun hwf => State.writeSpan_surfaces (s := { s with agenda := ev }) hwf v sel off x⟩
    · obtain ⟨hphase, hlt, base, hsrc, hoff⟩ := Activation.spanByte_some h
      exact ⟨hlt, hphase, .inr ⟨v, sel, off, base, rfl, hsrc, hoff⟩⟩

end Sys2Proof.Machine

/-! PROOFS. Operations on distinct buffers: an unraced one stores in its own range and returns its result, stores in disjoint
ranges commute, and so every interleaving of two operations ends alike (R90, R393). -/

namespace Sys2Proof

namespace Sparse

variable {β : Type} [DecidableEq β]

/-- Consecutive keys written in order. -/
def writeAll (d : β) : Sparse β → Nat → List β → Sparse β
  | m, _, [] => m
  | m, a, v :: vs => writeAll d (write d m a v) (a + 1) vs

/-- Writes of two different keys commute. -/
theorem write_comm (d : β) {m : Sparse β} (h : wf d m = true) {a b : Nat} (hab : a ≠ b) (v w : β) :
    write d (write d m a v) b w = write d (write d m b w) a v := by
  have ha := wf_write d m a v h
  have hb := wf_write d m b w h
  refine eq_of_read_eq d _ _ (wf_write d _ b w ha) (wf_write d _ a v hb) fun c => ?_
  by_cases hca : c = a
  · subst hca
    rw [read_write_other d _ b c w hab, read_write_same d m 0 c v h, read_write_same d _ 0 c v hb]
  · rw [read_write_other d (write d m b w) a c v hca]
    by_cases hcb : c = b
    · subst hcb
      rw [read_write_same d _ 0 c w ha, read_write_same d m 0 c w h]
    · rw [read_write_other d _ b c w hcb, read_write_other d _ b c w hcb, read_write_other d m a c v hca]

/-- A write outside a range commutes with the writes of the range. -/
theorem write_writeAll_comm (d : β) : ∀ {m : Sparse β} (a : Nat) (vs : List β), wf d m = true →
    ∀ {b : Nat}, (b < a ∨ a + vs.length ≤ b) → ∀ w, write d (writeAll d m a vs) b w = writeAll d (write d m b w) a vs
  | _, _, [], _, _, _, _ => rfl
  | m, a, v :: vs, h, b, hb, w => by
    rw [List.length_cons] at hb
    rw [writeAll, write_writeAll_comm d (a + 1) vs (wf_write d m a v h) (by omega) w, write_comm d h (by omega) v w]
    rfl

/-- Writes of two disjoint ranges commute. -/
theorem writeAll_comm (d : β) : ∀ {m : Sparse β} (a : Nat) (vs : List β) (b : Nat) (ws : List β), wf d m = true →
    (a + vs.length ≤ b ∨ b + ws.length ≤ a) →
      writeAll d (writeAll d m a vs) b ws = writeAll d (writeAll d m b ws) a vs
  | _, _, _, _, [], _, _ => rfl
  | m, a, vs, b, w :: ws, h, hab => by
    rw [List.length_cons] at hab
    rw [writeAll, write_writeAll_comm d a vs h (by omega) w, writeAll_comm d a vs (b + 1) ws (wf_write d m b w h) (by omega)]
    rfl

end Sparse

namespace Machine

theorem Scratch.writeAll_eq : ∀ (m : Sparse Sample) (a : Nat) (ss : List Sample),
    Scratch.writeAll m a ss = Sparse.writeAll Sample.none m a ss
  | _, _, [] => rfl
  | m, a, s :: ss => Scratch.writeAll_eq (Scratch.write m a s) (a + 1) ss

theorem State.storeBytes_mem : ∀ (s : State) (a : Nat) (bs : List Byte),
    (s.storeBytes a bs).mem = Sparse.writeAll Memory.unwritten s.mem a bs
  | _, _, [] => rfl
  | s, a, b :: bs => State.storeBytes_mem (s.storeByte a b) (a + 1) bs

/-! ### The return of an unraced operation -/

/-- The bytes that an unraced operation stores in requester memory when it returns, with the first one's address. -/
def Activation.stores (a : Activation) : Nat × List Byte :=
  match a.client with
  | .decode out => (out.addr, a.regs.out.flatMap Texel.bytes)
  | .sampler _ _ _ => (0, [])

/-- The samples that an unraced operation writes to the scratch space when it returns, with the first one's entry. -/
def Activation.samples (a : Activation) : Nat × List Sample :=
  match a.client with
  | .sampler (some r) _ (some _) => (r.base, a.regs.out.map sampleConvert)
  | _ => (0, [])

/-- What an unraced operation returns to its requester. -/
def Activation.answer (a : Activation) : Answer :=
  match a.client with
  | .decode _ => .decoded a.regs.status
  | .sampler _ _ none => .sampled .none
  | .sampler _ _ (some k) =>
    .sampled (if a.regs.status = .error then .none else (a.regs.out.map sampleConvert).getD k .none)

/-- The state after an unraced operation that no other reads from has returned: its bytes and samples written, its result
listed. -/
def State.returned (s : State) (a : Activation) : State :=
  { s with
    mem := Sparse.writeAll Memory.unwritten s.mem a.stores.1 a.stores.2,
    scratch := Sparse.writeAll Sample.none s.scratch a.samples.1 a.samples.2,
    results := s.results ++ [⟨a.requester, a.answer⟩] }

/-- No byte that the operation stores is read by the other. -/
def Activation.Spares (a b : Activation) : Prop :=
  ∀ c, a.stores.1 ≤ c → c < a.stores.1 + a.stores.2.length → b.memByte c = none

/-- An unraced operation that spares the others in progress returns as `returned` says. -/
theorem State.deliverTo_unraced {s : State} {a : Activation} (hraced : a.raced = false) (h : ∀ b ∈ s.active, a.Spares b) :
    s.deliverTo a = s.returned a := by
  cases hc : a.client with
  | decode out =>
    have hspares : ∀ b ∈ s.active, ∀ c, out.addr ≤ c → c < out.addr + (a.regs.out.flatMap Texel.bytes).length →
        b.memByte c = none := by simpa only [Activation.Spares, Activation.stores, hc] using h
    simp only [State.deliverTo, hc, State.deliverDecode, hraced, State.returned, Activation.stores, Activation.samples,
      Activation.answer, Bool.false_eq_true, if_false]
    rw [s.storeBytes_eq _ _ hspares, State.storeBytes_mem]
    rfl
  | sampler scr count entry =>
    simp only [State.deliverTo, hc, State.deliverSample, hraced, State.returned, Activation.stores, Activation.samples,
      Activation.answer, Bool.false_eq_true, if_false]
    cases entry with
    | none => cases scr <;> rfl
    | some k =>
      cases scr with
      | none => rfl
      | some r => rw [scratchAfter, Scratch.writeAll_eq]; rfl

/-- Two returns into disjoint ranges leave the same memories in either order. -/
theorem State.returned_comm {s : State} {a b : Activation} (hmem : Memory.wf s.mem = true)
    (hscratch : Scratch.wf s.scratch = true)
    (hstores : a.stores.1 + a.stores.2.length ≤ b.stores.1 ∨ b.stores.1 + b.stores.2.length ≤ a.stores.1)
    (hsamples : a.samples.1 + a.samples.2.length ≤ b.samples.1 ∨ b.samples.1 + b.samples.2.length ≤ a.samples.1) :
    ((s.returned a).returned b).mem = ((s.returned b).returned a).mem ∧
      ((s.returned a).returned b).scratch = ((s.returned b).returned a).scratch :=
  ⟨Sparse.writeAll_comm _ _ _ _ _ hmem hstores, Sparse.writeAll_comm _ _ _ _ _ hscratch hsamples⟩

end Machine

end Sys2Proof

/-! PROOFS. The interleavings of two operations in progress (R90, R393; log 1). -/

namespace Sys2Proof.Machine

open Sys2Proof.Spec (steps)

/-- The activation after its decoder has set its registers. -/
def Activation.decoded (a : Activation) (r : WorkRegs) : Activation :=
  { a with regs := r, phase := .returning }

/-- The state with the given operations in progress, and the given ones due to take a step. -/
def State.running (s : State) (as : List Activation) (ks : List Nat) : State :=
  { s with active := as, agenda := ks.map Event.advance }

/-! ### One step of an interleaving -/

theorem step_advance {s : State} {as : List Activation} {k : Nat} {ks : List Nat} {a : Activation}
    (hk : as[k]? = some a) : step (s.running as (k :: ks)) = runActive (s.running (a :: as.eraseIdx k) ks) := by
  rw [step_cons _ (.advance k) (ks.map Event.advance) rfl]
  simp only [stepEvent, stepAdvance, State.running, hk, State.bringForward]
  exact stepActive_eq_runActive rfl

/-- The step of an activation that is to decode makes it the first, with its registers set. -/
theorem steps_decode {a : Activation} {r : WorkRegs} (hphase : a.phase = .decoding) (hdec : a.Decodes r) (n : Nat)
    (s : State) {as : List Activation} {k : Nat} (hk : as[k]? = some a) (ks : List Nat) :
    steps (n + 1) (s.running as (k :: ks)) = steps n (s.running (a.decoded r :: as.eraseIdx k) ks) := by
  rw [steps, step_advance hk, runActive_of_decodes rfl hphase hdec]
  rfl

/-- The step of an activation that is to return takes it away, its stores made and its result listed. -/
theorem steps_return {a : Activation} (hphase : a.phase = .returning) (hraced : a.raced = false) (n : Nat) (s : State)
    {as : List Activation} {k : Nat} (hk : as[k]? = some a) (hspares : ∀ b ∈ as.eraseIdx k, a.Spares b) (ks : List Nat) :
    steps (n + 1) (s.running as (k :: ks)) = steps n ((s.returned a).running (as.eraseIdx k) ks) := by
  rw [steps, step_advance hk, runActive_of_returning rfl hphase, State.deliverTo_unraced hraced hspares]
  rfl

/-! ### All interleavings -/

/-- An operation that has decoded reads no more. -/
theorem Activation.spares_decoded (a b : Activation) (r : WorkRegs) : a.Spares (b.decoded r) := by
  intro c _ _
  cases hm : (b.decoded r).memByte c with
  | none => rfl
  | some j => cases (Activation.memByte_some hm).1

/-- Two operations that spare each other end, in each of their interleavings, with both returns made one after the other. -/
theorem steps_two {a b : Activation} {r r' : WorkRegs} (ha : a.phase = .decoding) (hb : b.phase = .decoding)
    (hraced : a.raced = false) (hraced' : b.raced = false) (hdec : a.Decodes r) (hdec' : b.Decodes r')
    (hspares : (a.decoded r).Spares b) (hspares' : (b.decoded r').Spares a) (s : State) :
    ∀ ks ∈ [[0, 0, 0, 0], [0, 1, 1, 0], [0, 1, 0, 0], [1, 0, 0, 0], [1, 1, 1, 0], [1, 1, 0, 0]],
      steps 4 (s.running [a, b] ks) = .next (((s.returned (a.decoded r)).returned (b.decoded r')).running [] []) ∨
        steps 4 (s.running [a, b] ks) = .next (((s.returned (b.decoded r')).returned (a.decoded r)).running [] []) := by
  have adec := @steps_decode a r ha hdec
  have bdec := @steps_decode b r' hb hdec'
  have aret := @steps_return (a.decoded r) rfl hraced
  have bret := @steps_return (b.decoded r') rfl hraced'
  have ab := (a.decoded r).spares_decoded b r'
  have ba := (b.decoded r').spares_decoded a r
  simp only [List.forall_mem_cons]
  refine ⟨.inl ?_, .inl ?_, .inr ?_, .inr ?_, .inr ?_, .inl ?_, by simp⟩
  · rw [adec 3 s rfl, aret 2 s rfl (by simpa using hspares), bdec 1 _ rfl, bret 0 _ rfl (by simp)]; rfl
  · rw [adec 3 s rfl, bdec 2 s rfl, aret 1 s rfl (by simpa using ab), bret 0 _ rfl (by simp)]; rfl
  · rw [adec 3 s rfl, bdec 2 s rfl, bret 1 s rfl (by simpa using ba), aret 0 _ rfl (by simp)]; rfl
  · rw [bdec 3 s rfl, bret 2 s rfl (by simpa using hspares'), adec 1 _ rfl, aret 0 _ rfl (by simp)]; rfl
  · rw [bdec 3 s rfl, adec 2 s rfl, bret 1 s rfl (by simpa using ba), aret 0 _ rfl (by simp)]; rfl
  · rw [bdec 3 s rfl, adec 2 s rfl, aret 1 s rfl (by simpa using ab), bret 0 _ rfl (by simp)]; rfl

/-- One operation alone ends with its return. -/
theorem steps_one {a : Activation} {r : WorkRegs} (ha : a.phase = .decoding) (hraced : a.raced = false)
    (hdec : a.Decodes r) (s : State) :
    steps 2 (s.running [a] [0, 0]) = .next ((s.returned (a.decoded r)).running [] []) := by
  rw [steps_decode ha hdec 1 s rfl, steps_return (a := a.decoded r) rfl hraced 0 s rfl (by simp)]
  rfl

/-! ### Distinct buffers (R414; log 22) -/

theorem disjoint_of_sameBuffer {a n b m : Nat} (h : sameBuffer a n b m = false) : a + n ≤ b ∨ b + m ≤ a := by
  simp only [sameBuffer, Bool.or_eq_false_iff, Bool.and_eq_false_iff, decide_eq_false_iff_not] at h
  omega

/-- A DECODE in shape has a block of a BC format (R157 (4)). -/
theorem Activation.space_of_decode {a : Activation} (h : a.ok = true) {out : OutRef} (hc : a.client = .decode out) :
    a.fmt.space.isSome = true := by
  simp only [Activation.ok, hc, Bool.and_eq_true] at h
  exact h.2.2

/-- An operation that has decoded stores the whole output buffer of its DECODE, or no byte at all. -/
theorem Activation.Decodes.stores_eq {a : Activation} {r : WorkRegs} (h : a.Decodes r) (ha : a.ok = true) :
    (a.decoded r).stores = (0, []) ∨ ∃ out, a.client = .decode out ∧ (a.decoded r).stores.1 = out.addr ∧
      (a.decoded r).stores.2.length = a.fmt.outBytes := by
  unfold Activation.stores
  cases hc : a.client with
  | sampler scr count entry => simp [Activation.decoded, hc]
  | decode out =>
    have hlen := h.length_outBytes (Activation.space_of_decode ha hc) (Activation.shaped_of_ok ha)
    exact .inr ⟨out, rfl, by simp [Activation.decoded, hc], by simpa [Activation.decoded, hc] using hlen⟩

/-- An operation that has decoded writes samples within its caller's scratch buffer, or none. -/
theorem Activation.Decodes.samples_eq {a : Activation} {r : WorkRegs} (h : a.Decodes r) (ha : a.ok = true) :
    (a.decoded r).samples = (0, []) ∨ ∃ scr n e, a.client = .sampler (some scr) n e ∧
      (a.decoded r).samples.1 = scr.base ∧ (a.decoded r).samples.2.length ≤ scr.cap := by
  unfold Activation.samples
  cases hc : a.client with
  | decode out => simp [Activation.decoded, hc]
  | sampler scr n e =>
    cases scr with
    | none => simp [Activation.decoded, hc]
    | some scr =>
      cases e with
      | none => simp [Activation.decoded, hc]
      | some k =>
        have hlen := (h.shaped (Activation.shaped_of_ok ha)).2
        simp only [Activation.ok, hc, scratchCap, Bool.and_eq_true, decide_eq_true_eq] at ha
        obtain ⟨-, ⟨hcount, -⟩, hcap⟩ := ha
        have hle : a.fmt.texelCount ≤ scr.cap := hcount ▸ of_decide_eq_true hcap
        exact .inr ⟨scr, n, some k, rfl, by simp [Activation.decoded, hc], by simpa [Activation.decoded, hc, hlen] using hle⟩

/-- Operations that share no buffer store in disjoint ranges of requester memory. -/
theorem stores_disjoint {a b : Activation} {r r' : WorkRegs} (ha : a.ok = true) (hb : b.ok = true) (hdec : a.Decodes r)
    (hdec' : b.Decodes r') (h : a.shares b = false) :
    let x := (a.decoded r).stores
    let y := (b.decoded r').stores
    x.1 + x.2.length ≤ y.1 ∨ y.1 + y.2.length ≤ x.1 := by
  dsimp only
  rcases hdec.stores_eq ha with hx | ⟨out, hc, hx, hl⟩
  · rw [hx]; exact .inl (Nat.zero_le _)
  rcases hdec'.stores_eq hb with hy | ⟨out', hc', hy, hl'⟩
  · rw [hy]; exact .inr (Nat.zero_le _)
  simp only [Activation.shares, hc, hc'] at h
  rw [hx, hl, hy, hl']
  exact disjoint_of_sameBuffer h

/-- Operations that share no buffer write samples in disjoint ranges of the scratch space. -/
theorem samples_disjoint {a b : Activation} {r r' : WorkRegs} (ha : a.ok = true) (hb : b.ok = true) (hdec : a.Decodes r)
    (hdec' : b.Decodes r') (h : a.shares b = false) :
    let x := (a.decoded r).samples
    let y := (b.decoded r').samples
    x.1 + x.2.length ≤ y.1 ∨ y.1 + y.2.length ≤ x.1 := by
  dsimp only
  rcases hdec.samples_eq ha with hx | ⟨scr, n, e, hc, hx, hl⟩
  · rw [hx]; exact .inl (Nat.zero_le _)
  rcases hdec'.samples_eq hb with hy | ⟨scr', n', e', hc', hy, hl'⟩
  · rw [hy]; exact .inr (Nat.zero_le _)
  simp only [Activation.shares, hc, hc'] at h
  have := disjoint_of_sameBuffer h
  omega

/-- An operation spares another that has captured no byte of its output buffer. -/
theorem Activation.Decodes.spares {a : Activation} {r : WorkRegs} (h : a.Decodes r) (ha : a.ok = true) {b : Activation}
    (hb : ∀ out, a.client = .decode out → ∀ c, out.addr ≤ c → c < out.addr + a.fmt.outBytes → b.memByte c = none) :
    (a.decoded r).Spares b := by
  intro c hlo hhi
  rcases h.stores_eq ha with hx | ⟨out, hc, hx, hl⟩
  · rw [hx] at hhi; cases hhi
  · rw [hx] at hlo hhi
    rw [hl] at hhi
    exact hb out hc c hlo hhi

/-- Settles O51: every interleaving makes both returns, and returns into disjoint ranges commute. -/
theorem operationsCommute : Obligations.OperationsCommute := by
  intro s a b hmem hscratch ha hb hpa hpb hra hrb hshares hab hba
  obtain ⟨r, hdec⟩ := Activation.exists_decodes ha hpa
  obtain ⟨r', hdec'⟩ := Activation.exists_decodes hb hpb
  have htwo := steps_two hpa hpb hra hrb hdec hdec' (hdec.spares ha hab) (hdec'.spares hb hba) s
  obtain ⟨hm, hsc⟩ := State.returned_comm hmem hscratch (stores_disjoint ha hb hdec hdec' hshares)
    (samples_disjoint ha hb hdec hdec' hshares)
  refine ⟨((s.returned (a.decoded r)).returned (b.decoded r')).mem,
    ((s.returned (a.decoded r)).returned (b.decoded r')).scratch, ⟨a.requester, (a.decoded r).answer⟩,
    ⟨b.requester, (b.decoded r').answer⟩, fun ks hks => ?_, ⟨_, steps_one hpa hra hdec s, rfl⟩,
    ⟨_, steps_one hpb hrb hdec' s, rfl⟩⟩
  rcases htwo ks hks with h | h
  · exact ⟨_, h, rfl, rfl, rfl, rfl, .inl (List.append_assoc _ _ _)⟩
  · exact ⟨_, h, hm.symm, hsc.symm, rfl, rfl, .inr (List.append_assoc _ _ _)⟩

end Sys2Proof.Machine

/-! PROOFS. The bits a cursor has passed: fields read from a block are written back as the bits they were read from (R170 to
R172), and a list of fields is written in one way alone. -/

namespace Sys2Proof.Bits

/-- The n block bits from the cursor on. -/
def slice (blk : Block) (cur n : Nat) : List Bool :=
  (List.range n).map fun j => blk.getLsbD (cur + j)

@[simp] theorem length_slice (blk : Block) (cur n : Nat) : (slice blk cur n).length = n := by simp [slice]

theorem slice_append (blk : Block) (cur n k : Nat) : slice blk cur n ++ slice blk (cur + n) k = slice blk cur (n + k) := by
  simp [slice, List.range_add, Nat.add_assoc]

theorem slice_zero_append (blk : Block) (n k : Nat) : slice blk 0 n ++ slice blk n k = slice blk 0 (n + k) := by
  simpa using slice_append blk 0 n k

/-- A block is its own 128 bits. -/
theorem toBlock_slice (blk : Block) : toBlock (slice blk 0 128) = blk := by
  refine BitVec.eq_of_getLsbD_eq fun k hk => ?_
  rw [getLsbD_toBlock _ (by simp), List.getD_eq_getElem?_getD]
  simp [slice, hk]

theorem ofField_getBits (blk : Block) (cur n : Nat) : ofField n (getBits blk cur n).1 = slice blk cur n := by
  refine List.map_congr_left fun j hj => ?_
  rw [getBits, Nat.testBit_mod_two_pow, Nat.testBit_shiftRight, decide_eq_true (List.mem_range.mp hj), Bool.true_and]
  rfl

theorem getBits_cursor (blk : Block) (cur n : Nat) : (getBits blk cur n).2 = cur + n := rfl

theorem ofFields_getList (blk : Block) : ∀ (ws : List Nat) (cur : Nat),
    ofFields ws (getList blk cur ws).1 = slice blk cur ws.sum
  | [], _ => rfl
  | w :: ws, cur => by
    rw [getList, ofFields, ofField_getBits, ofFields_getList blk ws, slice_append, List.sum_cons]

/-- The bits of a block determine every bit of its list. -/
theorem toBlock_injective {as bs : List Bool} (ha : as.length = 128) (hb : bs.length = 128)
    (h : toBlock as = toBlock bs) : as = bs := by
  refine List.ext_getElem (ha.trans hb.symm) fun k hka hkb => ?_
  have hk := congrArg (BitVec.getLsbD · k) h
  simpa [getLsbD_toBlock, ha, hb, List.getD_eq_getElem?_getD, List.getElem?_eq_getElem hka,
    List.getElem?_eq_getElem hkb] using hk

/-- A field within its width, and what follows it, can be told from the bits. -/
theorem ofField_append_inj {n v u : Nat} {as bs : List Bool} (hv : v < 2 ^ n) (hu : u < 2 ^ n)
    (h : ofField n v ++ as = ofField n u ++ bs) : v = u ∧ as = bs := by
  obtain ⟨hfield, hrest⟩ := List.append_inj h (by simp)
  exact ⟨by rw [← toNat_ofField n v hv, hfield, toNat_ofField n u hu], hrest⟩

/-- So can fields within their widths. -/
theorem ofFields_append_inj : ∀ {ws vs us : List Nat} {as bs : List Bool}, fieldsFit ws vs = true →
    fieldsFit ws us = true → ofFields ws vs ++ as = ofFields ws us ++ bs → vs = us ∧ as = bs
  | [], [], [], _, _, _, _, h => ⟨rfl, h⟩
  | w :: ws, v :: vs, u :: us, as, bs, hv, hu, h => by
    simp only [fieldsFit, Bool.and_eq_true, decide_eq_true_eq] at hv hu
    simp only [ofFields, List.append_assoc] at h
    obtain ⟨rfl, hrest⟩ := ofField_append_inj hv.1 hu.1 h
    obtain ⟨rfl, rfl⟩ := ofFields_append_inj hv.2 hu.2 hrest
    exact ⟨rfl, rfl⟩

theorem length_ofFields_of_fit {ws vs : List Nat} (h : fieldsFit ws vs = true) : (ofFields ws vs).length = ws.sum :=
  length_ofFields ws vs (fieldsFit_length ws vs h).symm

end Sys2Proof.Bits

namespace Sys2Proof

theorem fieldsFit_replicate {n w : Nat} : ∀ {vs : List Nat},
    fieldsFit (List.replicate n w) vs = true ↔ vs.length = n ∧ ∀ v ∈ vs, v < 2 ^ w := by
  induction n with
  | zero => intro vs; cases vs <;> simp [fieldsFit]
  | succ n ih =>
    intro vs
    cases vs with
    | nil => simp [fieldsFit, List.replicate_succ]
    | cons v vs => simp [fieldsFit, List.replicate_succ, ih]; tauto

end Sys2Proof

/-! PROOFS. The BC6H mode code (R111), and the header: each of its bits is one bit of one field (R113 to R127), so a header is
read back from its bits and its bits from the fields read. -/

namespace Sys2Proof.Machine

/-- Settles O5: the two reads put together are the low five bits. -/
theorem bc6hModeCode : Obligations.Bc6hModeCode := by
  intro blk
  have hcode : (blk.toNat >>> 2 % 2 ^ 3) <<< 2 ||| blk.toNat % 4 = blk.toNat % 32 := by
    rw [← Nat.shiftLeft_add_eq_or_of_lt (Nat.mod_lt _ (by decide)), Nat.shiftLeft_eq, Nat.shiftRight_eq_div_pow]
    omega
  calc bc6hModeRead blk
      = if blk.toNat % 4 = 0 ∨ blk.toNat % 4 = 1 then (blk.toNat % 4, 2)
          else ((blk.toNat >>> 2 % 2 ^ 3) <<< 2 ||| blk.toNat % 4, 5) := rfl
    _ = _ := by rw [hcode]

/-! ### The map of a header -/

/-- The width of a header field of a BC6H mode (R113). -/
def headerWidth (code : Nat) (i : Bc6hInfo) : Bc6hTag → Nat
  | .m => bc6hPrefixBits code
  | .d => if i.pc = 1 then 5 else 0
  | .rW => i.a0.r
  | .gW => i.a0.g
  | .bW => i.a0.b
  | .rX => i.b0.r
  | .gX => i.b0.g
  | .bX => i.b0.b
  | .rY => i.a1.r
  | .gY => i.a1.g
  | .bY => i.a1.b
  | .rZ => i.b1.r
  | .gZ => i.b1.g
  | .bZ => i.b1.b

/-- Every bit of every header field. -/
def headerBits (code : Nat) (i : Bc6hInfo) : List (Bc6hTag × Nat) :=
  [.m, .d, .rW, .gW, .bW, .rX, .gX, .bX, .rY, .gY, .bY, .rZ, .gZ, .bZ].flatMap fun t =>
    (List.range (headerWidth code i t)).map (t, ·)

theorem mem_headerBits {code : Nat} {i : Bc6hInfo} {t : Bc6hTag} {j : Nat} :
    (t, j) ∈ headerBits code i ↔ j < headerWidth code i t := by
  cases t <;> simp [headerBits]

/-- No header bit is listed twice. -/
theorem headerBits_nodup (code : Nat) (i : Bc6hInfo) : (headerBits code i).Nodup := by
  refine List.nodup_flatMap.mpr ⟨fun t _ => List.nodup_range.map fun _ _ h => (Prod.mk.inj h).2, ?_⟩
  refine List.Pairwise.imp ?_ (by decide : List.Nodup _)
  rintro t t' hne ⟨t₀, j⟩ h h'
  obtain ⟨_, -, he⟩ := List.mem_map.mp h
  obtain ⟨_, -, he'⟩ := List.mem_map.mp h'
  exact hne ((Prod.mk.inj he).1.trans (Prod.mk.inj he').1.symm)

/-- The map of a mode lists the bits of its fields, each once. -/
theorem bc6hDesc_perm {code : Nat} {i : Bc6hInfo} (h : Rom.bc6hInfo code = some i) :
    (bc6hDesc code).Perm (headerBits code i) := by
  unfold Rom.bc6hInfo at h
  split at h <;> cases h <;> decide +kernel

theorem bc6hDesc_nodup {code : Nat} {i : Bc6hInfo} (h : Rom.bc6hInfo code = some i) : (bc6hDesc code).Nodup :=
  (bc6hDesc_perm h).nodup_iff.mpr (headerBits_nodup code i)

theorem mem_bc6hDesc {code : Nat} {i : Bc6hInfo} (h : Rom.bc6hInfo code = some i) {t : Bc6hTag} {j : Nat} :
    (t, j) ∈ bc6hDesc code ↔ j < headerWidth code i t :=
  (bc6hDesc_perm h).mem_iff.trans mem_headerBits

theorem length_bc6hDesc {code : Nat} {i : Bc6hInfo} (h : Rom.bc6hInfo code = some i) :
    (bc6hDesc code).length = bc6hHeaderBits i.pc := by
  unfold Rom.bc6hInfo at h
  split at h <;> cases h <;> rfl

/-- The mode bits stand first, in order (R113). -/
theorem bc6hDesc_prefix {code : Nat} {i : Bc6hInfo} (h : Rom.bc6hInfo code = some i) :
    ∀ k < bc6hPrefixBits code, (bc6hDesc code)[k]? = some (.m, k) := by
  unfold Rom.bc6hInfo at h
  split at h <;> cases h <;> decide +kernel

/-! ### The scatter loop -/

/-- The loop sets the bits whose entries stand at a set block bit, and no other (R113). -/
theorem testBit_scatter (blk : Block) {t : Bc6hTag} (ht : t ≠ .m) (j : Nat) : ∀ (es : List (Bc6hTag × Nat)) (cur : Nat)
    (f : Bc6hFields), ((scatter blk cur es f).get 0 t).testBit j = true ↔
      (f.get 0 t).testBit j = true ∨ ∃ k, es[k]? = some (t, j) ∧ blk.getLsbD (cur + k) = true
  | [], cur, f => by simp [scatter]
  | (t', j') :: es, cur, f => by
    have hset : ((if blk.getLsbD cur = true then f.setBit t' j' else f).get 0 t).testBit j = true ↔
        (f.get 0 t).testBit j = true ∨ (t', j') = (t, j) ∧ blk.getLsbD cur = true := by
      by_cases hbit : blk.getLsbD cur = true
      · rw [if_pos hbit, get_setBit]
        by_cases htt : t = t'
        · subst htt
          simp [ht, hbit, Nat.testBit_or, Nat.one_shiftLeft, Nat.testBit_two_pow]
        · simp [htt, Ne.symm htt]
      · simp [hbit]
    have hexists : (∃ k, ((t', j') :: es)[k]? = some (t, j) ∧ blk.getLsbD (cur + k) = true) ↔
        ((t', j') = (t, j) ∧ blk.getLsbD cur = true) ∨
          ∃ k, es[k]? = some (t, j) ∧ blk.getLsbD (cur + 1 + k) = true := by
      rw [← Nat.or_exists_add_one]
      simp [Nat.add_assoc, Nat.add_comm 1]
    rw [scatter, Bits.getBit, testBit_scatter blk ht j es, hset, hexists, or_assoc]

end Sys2Proof.Machine

namespace Sys2Proof

/-- The fields are within the widths of the mode's layout (R113, R128). -/
structure Bc6hFields.Fits (code : Nat) (i : Bc6hInfo) (f : Bc6hFields) : Prop where
  header : ∀ t ≠ .m, f.get 0 t < 2 ^ Machine.headerWidth code i t
  idx : fieldsFit (Rom.indexWidths i.pc f.d i.ib) f.idx = true

end Sys2Proof

namespace Sys2Proof.Machine

/-! ### The mode bits -/

/-- The codes that the two reads of R111 can give. -/
def PrefixCode (code : Nat) : Prop :=
  code < 2 ∨ 2 ≤ code % 4 ∧ code < 32

theorem prefixCode_of_info {code : Nat} {i : Bc6hInfo} (h : Rom.bc6hInfo code = some i) : PrefixCode code := by
  unfold PrefixCode
  unfold Rom.bc6hInfo at h
  split at h <;> cases h <;> decide

theorem bc6hPrefixBits_eq (code : Nat) : bc6hPrefixBits code = if code < 2 then 2 else 5 :=
  if_congr (by omega) rfl rfl

theorem prefixCode_bc6hModeRead (blk : Block) : PrefixCode (bc6hModeRead blk).1 := by
  rw [bc6hModeCode, PrefixCode]
  split <;> omega

/-- A block that begins with a code's mode bits is read as that code, with the cursor after them. -/
theorem bc6hModeRead_of_prefix {code : Nat} (h : PrefixCode code) {blk : Block}
    (hblk : blk.toNat % 2 ^ bc6hPrefixBits code = code) : bc6hModeRead blk = (code, bc6hPrefixBits code) := by
  rw [bc6hModeCode]
  rw [bc6hPrefixBits_eq] at hblk ⊢
  rcases h with hlt | ⟨hlo, -⟩
  · rw [if_pos hlt] at hblk ⊢
    rw [if_pos (by omega)]
    exact congrArg (·, 2) hblk
  · have hge : ¬ code < 2 := by omega
    rw [if_neg hge] at hblk ⊢
    rw [if_neg (by omega)]
    exact congrArg (·, 5) hblk

/-- A block begins with the mode bits of the code it is read as, and the cursor then stands after them. -/
theorem bc6hModeRead_prefix (blk : Block) :
    (bc6hModeRead blk).2 = bc6hPrefixBits (bc6hModeRead blk).1 ∧
      blk.toNat % 2 ^ bc6hPrefixBits (bc6hModeRead blk).1 = (bc6hModeRead blk).1 := by
  rw [bc6hModeCode, bc6hPrefixBits_eq]
  by_cases hlo : blk.toNat % 4 = 0 ∨ blk.toNat % 4 = 1
  · rw [if_pos hlo, if_pos (by omega)]
    exact ⟨rfl, rfl⟩
  · rw [if_neg hlo, if_neg (by omega)]
    exact ⟨rfl, rfl⟩

/-! ### The fields of a block -/

/-- The mode bits alone depend on the code. -/
theorem get_of_ne (code : Nat) (f : Bc6hFields) {t : Bc6hTag} (ht : t ≠ .m) : f.get code t = f.get 0 t := by
  cases t
  case m => exact absurd rfl ht
  all_goals rfl

section

variable {code : Nat} {i : Bc6hInfo} {blk : Block}

/-- The bits set in the fields read are those whose entries stand at a set block bit (R113, R202). -/
theorem testBit_bc6hParse (cur : Nat) {t : Bc6hTag} (ht : t ≠ .m) (j : Nat) :
    ((bc6hParse code cur i blk).get 0 t).testBit j = true ↔
      ∃ k, (bc6hDesc code)[cur + k]? = some (t, j) ∧ blk.getLsbD (cur + k) = true := by
  have hget : (bc6hParse code cur i blk).get 0 t = (scatter blk cur ((bc6hDesc code).drop cur) .zero).get 0 t := by
    cases t <;> rfl
  have hzero : (Bc6hFields.zero.get 0 t).testBit j = false := by cases t <;> exact Nat.zero_testBit j
  rw [hget, testBit_scatter blk ht, hzero]
  simp only [List.getElem?_drop, Bool.false_eq_true, false_or]

/-- The fields read are within the widths of the mode (R113, R128). -/
theorem bc6hParse_fits (hi : Rom.bc6hInfo code = some i) (cur : Nat) (blk : Block) :
    (bc6hParse code cur i blk).Fits code i where
  header t ht := by
    refine Nat.lt_pow_two_of_testBit _ fun j hj => ?_
    rw [← Bool.not_eq_true, testBit_bc6hParse cur ht]
    rintro ⟨k, hk, -⟩
    exact absurd ((mem_bc6hDesc hi).mp (List.mem_of_getElem? hk)) (by omega)
  idx := Bits.fieldsFit_getList blk _ _

section

variable (hi : Rom.bc6hInfo code = some i) (hblk : blk.toNat % 2 ^ bc6hPrefixBits code = code)
include hi hblk

/-- The header bit at an entry of the map is the block bit at the entry's place (R113). -/
theorem headerBit_bc6hParse {k : Nat} {e : Bc6hTag × Nat} (hk : (bc6hDesc code)[k]? = some e) :
    ((bc6hParse code (bc6hPrefixBits code) i blk).get code e.1).testBit e.2 = blk.getLsbD k := by
  obtain ⟨t, j⟩ := e
  have hunique : ∀ {k'}, (bc6hDesc code)[k']? = some (t, j) → k = k' := fun hk' =>
    (List.getElem?_inj (List.getElem?_eq_some_iff.mp hk).1 (bc6hDesc_nodup hi)).mp (hk.trans hk'.symm)
  by_cases ht : t = .m
  · subst ht
    have hj : j < bc6hPrefixBits code := (mem_bc6hDesc hi).mp (List.mem_of_getElem? hk)
    obtain rfl := hunique (bc6hDesc_prefix hi j hj)
    calc code.testBit k = (blk.toNat % 2 ^ bc6hPrefixBits code).testBit k := by rw [hblk]
      _ = blk.getLsbD k := by rw [Nat.testBit_mod_two_pow, decide_eq_true hj, Bool.true_and]; rfl
  · have hcur : bc6hPrefixBits code ≤ k := by
      by_contra hlt
      rw [bc6hDesc_prefix hi k (by omega)] at hk
      cases hk
      exact ht rfl
    rw [get_of_ne _ _ ht, Bool.eq_iff_iff, testBit_bc6hParse _ ht]
    constructor
    · rintro ⟨k', hk', hbit⟩
      rwa [hunique hk']
    · intro hbit
      exact ⟨k - bc6hPrefixBits code, by rwa [Nat.add_sub_cancel' hcur], by rwa [Nat.add_sub_cancel' hcur]⟩

/-- Encoding the fields read from a block gives the block again (R113, R128, R130). -/
theorem encodeBc6h_bc6hParse : encodeBc6h code (bc6hParse code (bc6hPrefixBits code) i blk) = blk := by
  have hheader : (bc6hDesc code).map (fun e =>
      ((bc6hParse code (bc6hPrefixBits code) i blk).get code e.1).testBit e.2) =
        Bits.slice blk 0 (bc6hHeaderBits i.pc) := by
    refine List.ext_getElem (by simp [length_bc6hDesc hi]) fun k hk _ => ?_
    have hk : k < (bc6hDesc code).length := by simpa using hk
    rw [List.getElem_map, headerBit_bc6hParse hi hblk (List.getElem?_eq_getElem hk)]
    simp [Bits.slice]
  have hd := (bc6hParse_inRange code (bc6hPrefixBits code) blk (bc6hInfo_bounds hi).1).header .d
  obtain ⟨hsum, -⟩ := bc6h_indices_fit hi hd
  have hidx : Bits.ofFields (Rom.indexWidths i.pc (bc6hParse code (bc6hPrefixBits code) i blk).d i.ib)
      (bc6hParse code (bc6hPrefixBits code) i blk).idx = Bits.slice blk (bc6hHeaderBits i.pc) _ :=
    Bits.ofFields_getList blk _ _
  simp only [encodeBc6h, hi]
  rw [hheader, hidx, Bits.slice_zero_append]
  exact (congrArg (Bits.toBlock <| Bits.slice blk 0 ·) hsum).trans (Bits.toBlock_slice blk)

end

/-! ### Encoding is injective -/

/-- Fields are the same when every header field and the indices are. -/
theorem bc6hFields_ext {f g : Bc6hFields} (hheader : ∀ t ≠ .m, f.get 0 t = g.get 0 t) (hidx : f.idx = g.idx) : f = g := by
  have hall : ∀ t, f.get 0 t = g.get 0 t := fun t => by
    by_cases ht : t = .m
    · rw [ht]; rfl
    · exact hheader t ht
  have hrgb : ∀ {p q : Rgb}, p.r = q.r → p.g = q.g → p.b = q.b → p = q := by
    rintro ⟨⟩ ⟨⟩ rfl rfl rfl; rfl
  obtain ⟨w, x, y, z, d, idx⟩ := f
  obtain rfl : w = g.w := hrgb (hall .rW) (hall .gW) (hall .bW)
  obtain rfl : x = g.x := hrgb (hall .rX) (hall .gX) (hall .bX)
  obtain rfl : y = g.y := hrgb (hall .rY) (hall .gY) (hall .bY)
  obtain rfl : z = g.z := hrgb (hall .rZ) (hall .gZ) (hall .bZ)
  obtain rfl : d = g.d := hall .d
  obtain rfl : idx = g.idx := hidx
  rfl

/-- The bits of a block of a valid BC6H mode. -/
def bc6hBits (code : Nat) (i : Bc6hInfo) (f : Bc6hFields) : List Bool :=
  ((bc6hDesc code).map fun e => (f.get code e.1).testBit e.2) ++
    Bits.ofFields (Rom.indexWidths i.pc f.d i.ib) f.idx

theorem encodeBc6h_eq (hi : Rom.bc6hInfo code = some i) (f : Bc6hFields) :
    encodeBc6h code f = Bits.toBlock (bc6hBits code i f) := by
  unfold encodeBc6h
  rw [hi]
  rfl

theorem length_bc6hBits (hi : Rom.bc6hInfo code = some i) {f : Bc6hFields} (hf : f.Fits code i) :
    (bc6hBits code i f).length = 128 := by
  have hd : f.d < 32 := by
    have hwidth : headerWidth code i .d ≤ 5 := by simp only [headerWidth]; split <;> decide
    exact (hf.header .d (by decide)).trans_le (Nat.pow_le_pow_right (by decide) hwidth)
  rw [bc6hBits, List.length_append, List.length_map, length_bc6hDesc hi, Bits.length_ofFields_of_fit hf.idx]
  exact (bc6h_indices_fit hi hd).1

/-- Fields within their widths that encode alike are the same (R113, R128). -/
theorem encodeBc6h_injective (hi : Rom.bc6hInfo code = some i) {f g : Bc6hFields} (hf : f.Fits code i)
    (hg : g.Fits code i) (h : encodeBc6h code f = encodeBc6h code g) : f = g := by
  rw [encodeBc6h_eq hi, encodeBc6h_eq hi] at h
  have hbits := Bits.toBlock_injective (length_bc6hBits hi hf) (length_bc6hBits hi hg) h
  obtain ⟨hmap, hidx⟩ := List.append_inj hbits (by simp)
  have hheader : ∀ t ≠ .m, f.get 0 t = g.get 0 t := fun t ht => by
    refine Nat.eq_of_testBit_eq fun j => ?_
    by_cases hj : j < headerWidth code i t
    · simpa [get_of_ne code _ ht] using List.map_inj_left.mp hmap (t, j) ((mem_bc6hDesc hi).mpr hj)
    · have hbeyond : ∀ {f : Bc6hFields}, f.Fits code i → (f.get 0 t).testBit j = false := fun hf =>
        Nat.testBit_lt_two_pow ((hf.header t ht).trans_le (Nat.pow_le_pow_right (by decide) (by omega)))
      rw [hbeyond hf, hbeyond hg]
  refine bc6hFields_ext hheader ?_
  have hd : f.d = g.d := hheader .d (by decide)
  have hfidx := hf.idx
  rw [hd] at hidx hfidx
  exact (Bits.ofFields_append_inj (as := []) (bs := []) hfidx hg.idx (by simpa using hidx)).1

/-! ### The BC6H decoder on an encoding -/

/-- Well-formed fields are those that fit, field by field (R113, R128). -/
theorem bc6hFields_wf_iff (hi : Rom.bc6hInfo code = some i) (f : Bc6hFields) : f.wf code = true ↔ f.Fits code i := by
  have hshape : (if i.pc = 1 then 32 else 1) = 2 ^ headerWidth code i .d := by unfold headerWidth; split <;> rfl
  simp only [Bc6hFields.wf, hi, Rgb.fits, hshape, Bool.and_eq_true, decide_eq_true_eq, and_assoc]
  constructor
  · rintro ⟨hrW, hgW, hbW, hrX, hgX, hbX, hrY, hgY, hbY, hrZ, hgZ, hbZ, hd, hidx⟩
    refine ⟨fun t ht => ?_, hidx⟩
    cases t
    case m => exact absurd rfl ht
    all_goals assumption
  · intro h
    have hh := fun t => h.header t
    exact ⟨hh .rW nofun, hh .gW nofun, hh .bW nofun, hh .rX nofun, hh .gX nofun, hh .bX nofun, hh .rY nofun,
      hh .gY nofun, hh .bY nofun, hh .rZ nofun, hh .gZ nofun, hh .bZ nofun, hh .d nofun, h.idx⟩

/-- The block of a valid BC6H mode begins with the bits of its code. -/
theorem encodeBc6h_prefix (hi : Rom.bc6hInfo code = some i) (f : Bc6hFields) :
    (encodeBc6h code f).toNat % 2 ^ bc6hPrefixBits code = code := by
  have hlt : bc6hPrefixBits code ≤ 8 ∧ code < 2 ^ bc6hPrefixBits code := by
    unfold Rom.bc6hInfo at hi
    split at hi <;> cases hi <;> decide
  refine Nat.eq_of_testBit_eq fun k => ?_
  rw [Nat.testBit_mod_two_pow]
  by_cases hk : k < bc6hPrefixBits code
  · rw [decide_eq_true hk, Bool.true_and]
    exact Laws.modeBit code f k (by omega) (by rw [hi]; rfl) (bc6hDesc_prefix hi k hk)
  · rw [decide_eq_false hk, Bool.false_and,
      Nat.testBit_lt_two_pow (hlt.2.trans_le (Nat.pow_le_pow_right (by decide) (by omega)))]

/-- Decoding the encoding of fields within their widths reads them back (R111, R113, R128). -/
theorem decodeBc6hBlock_encodeBc6h {f : Bc6hFields} (hf : f.wf code = true) (signed : Bool) (layout : Layout) :
    decodeBc6hBlock signed layout (encodeBc6h code f) = bc6hInstr code signed layout f := by
  cases hi : Rom.bc6hInfo code with
  | none => simp [Bc6hFields.wf, hi] at hf
  | some i =>
    have hprefix := encodeBc6h_prefix hi f
    have hparse : bc6hParse code (bc6hPrefixBits code) i (encodeBc6h code f) = f :=
      encodeBc6h_injective hi (bc6hParse_fits hi _ _) ((bc6hFields_wf_iff hi f).mp hf) (encodeBc6h_bc6hParse hi hprefix)
    simp only [decodeBc6hBlock, bc6hModeRead_of_prefix (prefixCode_of_info hi) hprefix, hi, hparse]

/-- Each valid mode has an instruction, which encodes its fields with the mode's code. -/
theorem bc6hInstr_ok (hi : Rom.bc6hInfo code = some i) (signed : Bool) (layout : Layout) (f : Bc6hFields) :
    ∃ j, bc6hInstr code signed layout f = .ok j ∧ j.wf = f.wf code ∧
      encode j = .bc6h signed layout (encodeBc6h code f) := by
  unfold Rom.bc6hInfo at hi
  split at hi <;> cases hi <;> exact ⟨_, rfl, rfl, rfl⟩

/-! ### The reserved codes -/

/-- The low part of two bit vectors put together. -/
theorem mod_of_append {m n : Nat} (x : BitVec m) (y : BitVec n) : (x ++ y).toNat % 2 ^ n = y.toNat :=
  congrArg BitVec.toNat (BitVec.extractLsb'_append_eq_right (a := x) (b := y))

/-- The high part of two bit vectors put together. -/
theorem shift_of_append {m n : Nat} (x : BitVec m) (y : BitVec n) : BitVec.ofNat m ((x ++ y).toNat >>> n) = x :=
  BitVec.extractLsb'_append_eq_left

/-- A bit vector is its high part over its low part. -/
theorem append_shift_mod {m n : Nat} (x : BitVec (m + n)) :
    BitVec.ofNat m (x.toNat >>> n) ++ BitVec.ofNat n (x.toNat % 2 ^ n) = x := by
  have hlow : BitVec.ofNat n (x.toNat % 2 ^ n) = x.extractLsb' 0 n := BitVec.eq_of_toNat_eq (by simp)
  rw [hlow]
  exact (BitVec.extractLsb'_append_extractLsb'_eq_extractLsb' (Nat.zero_add n).symm).trans BitVec.extractLsb'_eq_self

/-- A code that is no mode's is one of four, each with its instruction, which encodes the bits it ignores (R129). -/
theorem bc6hReservedInstr_ok (h : PrefixCode code) (hi : Rom.bc6hInfo code = none) (signed : Bool) (layout : Layout)
    (rest : BitVec 123) :
    bc6hPrefixBits code = 5 ∧ ∃ j, bc6hReservedInstr code signed layout rest = .ok j ∧ j.wf = true ∧
      encode j = .bc6h signed layout (encodeBc6hReserved (BitVec.ofNat 5 code) rest) := by
  have hcodes : ∀ c < 32, c < 2 ∨ 2 ≤ c % 4 → Rom.bc6hInfo c = none → c = 0x13 ∨ c = 0x17 ∨ c = 0x1B ∨ c = 0x1F := by
    decide
  unfold PrefixCode at h
  rcases hcodes code (by omega) (by omega) hi with rfl | rfl | rfl | rfl <;> exact ⟨rfl, _, rfl, rfl, rfl⟩

/-- Decoding the encoding of a reserved block gives the bits it ignores (R129). -/
theorem decodeBc6hBlock_reserved {c : BitVec 5} (hc : PrefixCode c.toNat) (hi : Rom.bc6hInfo c.toNat = none)
    (signed : Bool) (layout : Layout) (rest : BitVec 123) :
    decodeBc6hBlock signed layout (encodeBc6hReserved c rest) = bc6hReservedInstr c.toNat signed layout rest := by
  have hpre := (bc6hReservedInstr_ok hc hi signed layout rest).1
  have hmode := bc6hModeRead_of_prefix (blk := encodeBc6hReserved c rest) hc (by rw [hpre]; exact mod_of_append rest c)
  have hrest : BitVec.ofNat 123 ((encodeBc6hReserved c rest).toNat >>> 5) = rest := shift_of_append rest c
  simp only [decodeBc6hBlock, hmode, hi, hrest]

end

/-- Every BC6H block is the encoding of the well-formed instruction it decodes to (R129, R130). -/
theorem encode_of_decodeBc6hBlock (signed : Bool) (layout : Layout) (blk : Block) :
    ∃ j, decodeBc6hBlock signed layout blk = .ok j ∧ j.wf = true ∧ encode j = .bc6h signed layout blk := by
  obtain ⟨hcur, hprefix⟩ := bc6hModeRead_prefix blk
  have hcode := prefixCode_bc6hModeRead blk
  unfold decodeBc6hBlock
  generalize bc6hModeRead blk = mode at hcur hprefix hcode ⊢
  obtain ⟨code, cur⟩ := mode
  dsimp only at hcur hprefix hcode ⊢
  subst hcur
  cases hi : Rom.bc6hInfo code with
  | none =>
    obtain ⟨hpre, j, hj, hwf, henc⟩ :=
      bc6hReservedInstr_ok hcode hi signed layout (BitVec.ofNat 123 (blk.toNat >>> 5))
    refine ⟨j, hj, hwf, henc.trans ?_⟩
    rw [hpre] at hprefix
    rw [← hprefix]
    exact congrArg _ (append_shift_mod (m := 123) (n := 5) blk)
  | some i =>
    obtain ⟨j, hj, hwf, henc⟩ := bc6hInstr_ok hi signed layout (bc6hParse code (bc6hPrefixBits code) i blk)
    refine ⟨j, hj, hwf.trans ((bc6hFields_wf_iff hi _).mpr (bc6hParse_fits hi _ blk)), ?_⟩
    rw [henc, encodeBc6h_bc6hParse hi hprefix]

end Sys2Proof.Machine

/-! PROOFS. The BC7 mode (R140, R261), and the fields of a block (R141 to R152): they are read back from their bits, and their
bits from the fields read. Every block of either format decodes, and encodes back to itself. -/

namespace Sys2Proof

/-- The fields are within the widths of the mode's layout, the endpoints channel by channel (R141 to R152). -/
structure Bc7Fields.Fits (i : Bc7Info) (f : Bc7Fields) : Prop where
  shape : f.shape < 2 ^ i.pb
  rot : f.rot < 2 ^ i.rb
  imode : f.imode < 2 ^ i.imb
  r : fieldsFit (List.replicate (2 * (i.pc + 1)) i.prec.r) (f.ends.map (·.r)) = true
  g : fieldsFit (List.replicate (2 * (i.pc + 1)) i.prec.g) (f.ends.map (·.g)) = true
  b : fieldsFit (List.replicate (2 * (i.pc + 1)) i.prec.b) (f.ends.map (·.b)) = true
  a : fieldsFit (List.replicate (2 * (i.pc + 1)) i.prec.a) (f.ends.map (·.a)) = true
  pbits : fieldsFit (List.replicate i.np 1) f.pbits = true
  w1 : fieldsFit (Rom.indexWidths i.pc f.shape i.ip) f.w1 = true
  w2 : fieldsFit (Rom.secondaryWidths i.ip2) f.w2 = true

end Sys2Proof

namespace Sys2Proof.Machine

/-! ### The unary mode bits -/

/-- r is the first set block bit from m on, or 8 when bits m to 7 are zero. -/
structure FirstSet (blk : Block) (m r : Nat) : Prop where
  ge : m ≤ r
  le : r ≤ 8
  below : ∀ j, m ≤ j → j < r → blk.getLsbD j = false
  isSet : r < 8 → blk.getLsbD r = true

/-- The scan from mode m on finds the first set bit from m on (R140). -/
theorem bc7ModeScan_firstSet (blk : Block) : ∀ m k : Nat, m + k = 8 → FirstSet blk m (bc7ModeScan blk m k)
  | m, 0, h => by
    obtain rfl : m = 8 := h
    exact ⟨le_rfl, le_rfl, fun j hge hlt => absurd hlt (Nat.not_lt.mpr hge), nofun⟩
  | m, k + 1, h => by
    unfold bc7ModeScan Bits.getBit
    split
    next hbit => exact ⟨le_rfl, by omega, fun j _ _ => by omega, fun _ => hbit⟩
    next hbit =>
      have ih := bc7ModeScan_firstSet blk (m + 1) k (by omega)
      refine ⟨by have := ih.ge; omega, ih.le, fun j hj hlt => ?_, ih.isSet⟩
      by_cases hjm : j = m
      · simpa [hjm] using hbit
      · exact ih.below j (by omega) hlt

theorem FirstSet.unique {blk : Block} {m r r' : Nat} (h : FirstSet blk m r) (h' : FirstSet blk m r') : r = r' := by
  have hle : ∀ {r r'}, FirstSet blk m r → FirstSet blk m r' → r ≤ r' := by
    intro r r' h h'
    by_contra hlt
    have hset := h'.isSet (by have := h.le; omega)
    rw [h.below r' h'.ge (by omega)] at hset
    cases hset
  exact le_antisymm (hle h h') (hle h' h)

theorem bc7ModeRead_eq_iff (blk : Block) (mode : Nat) : bc7ModeRead blk = mode ↔ FirstSet blk 0 mode :=
  ⟨fun h => h ▸ bc7ModeScan_firstSet blk 0 8 rfl, (bc7ModeScan_firstSet blk 0 8 rfl).unique⟩

/-- Settles O6: the scan answers the first set bit, of which there is at most one. -/
theorem bc7UnaryMode : Obligations.Bc7UnaryMode := by
  intro blk
  refine ⟨fun m hm => ?_, ?_⟩ <;> rw [bc7ModeRead_eq_iff]
  · exact ⟨fun h => ⟨h.isSet hm, fun j => h.below j (Nat.zero_le j)⟩,
      fun ⟨hset, hbelow⟩ => ⟨Nat.zero_le m, hm.le, fun j _ => hbelow j, fun _ => hset⟩⟩
  · exact ⟨fun h j => h.below j (Nat.zero_le j), fun h => ⟨Nat.zero_le 8, le_rfl, fun j _ => h j, nofun⟩⟩

theorem bc7ModeRead_le (blk : Block) : bc7ModeRead blk ≤ 8 := ((bc7ModeRead_eq_iff blk _).mp rfl).le

/-- The unary form of the mode read is the block bits up to the first set one. -/
theorem ofField_prefix {blk : Block} (h : bc7ModeRead blk < 8) :
    Bits.ofField (bc7ModeRead blk + 1) (1 <<< bc7ModeRead blk) = Bits.slice blk 0 (bc7ModeRead blk + 1) := by
  have hfirst := (bc7ModeRead_eq_iff blk _).mp rfl
  refine List.map_congr_left fun j hj => ?_
  have hj : j < bc7ModeRead blk + 1 := List.mem_range.mp hj
  rw [Nat.one_shiftLeft, Nat.testBit_two_pow, Nat.zero_add]
  by_cases hjm : bc7ModeRead blk = j
  · rw [decide_eq_true hjm, ← hjm, hfirst.isSet h]
  · rw [decide_eq_false hjm, hfirst.below j (Nat.zero_le j) (by omega)]

/-- The block of a valid BC7 mode is read as that mode. -/
theorem bc7ModeRead_encodeBc7 {mode : Nat} (h : mode < 8) (f : Bc7Fields) : bc7ModeRead (encodeBc7 mode f) = mode := by
  rw [bc7ModeRead_eq_iff]
  refine ⟨Nat.zero_le mode, h.le, fun j _ hj => ?_, fun _ => ?_⟩
  · rw [Laws.unaryBit mode f j h hj.le, decide_eq_false (by omega)]
  · rw [Laws.unaryBit mode f mode h le_rfl, decide_eq_true rfl]

/-! ### The endpoints by channel -/

theorem rgbaList_map : ∀ es : List Rgba, rgbaList (es.map (·.r)) (es.map (·.g)) (es.map (·.b)) (es.map (·.a)) = es
  | [] => rfl
  | e :: es => congrArg (e :: ·) (rgbaList_map es)

/-- The channels of endpoints put together from columns of one length are the columns. -/
theorem map_rgbaList : ∀ {n : Nat} {rs gs bs as : List Nat}, rs.length = n → gs.length = n → bs.length = n → as.length = n →
    (rgbaList rs gs bs as).map (·.r) = rs ∧ (rgbaList rs gs bs as).map (·.g) = gs ∧
      (rgbaList rs gs bs as).map (·.b) = bs ∧ (rgbaList rs gs bs as).map (·.a) = as
  | 0, [], [], [], [], _, _, _, _ => ⟨rfl, rfl, rfl, rfl⟩
  | n + 1, r :: rs, g :: gs, b :: bs, a :: as, hr, hg, hb, ha => by
    obtain ⟨h1, h2, h3, h4⟩ := map_rgbaList (Nat.succ.inj hr) (Nat.succ.inj hg) (Nat.succ.inj hb) (Nat.succ.inj ha)
    exact ⟨congrArg (r :: ·) h1, congrArg (g :: ·) h2, congrArg (b :: ·) h3, congrArg (a :: ·) h4⟩

section

variable {mode : Nat} {i : Bc7Info}

/-- Well-formed fields are those that fit, the endpoints channel by channel (R141 to R152). -/
theorem bc7Fields_wf_iff (hi : Rom.bc7Info mode = some i) (f : Bc7Fields) : f.wf mode = true ↔ f.Fits i := by
  have hends : (f.ends.length = 2 * (i.pc + 1) ∧ f.ends.all (Rgba.fits i.prec) = true) ↔
      fieldsFit (List.replicate (2 * (i.pc + 1)) i.prec.r) (f.ends.map (·.r)) = true ∧
      fieldsFit (List.replicate (2 * (i.pc + 1)) i.prec.g) (f.ends.map (·.g)) = true ∧
      fieldsFit (List.replicate (2 * (i.pc + 1)) i.prec.b) (f.ends.map (·.b)) = true ∧
      fieldsFit (List.replicate (2 * (i.pc + 1)) i.prec.a) (f.ends.map (·.a)) = true := by
    simp only [fieldsFit_replicate, List.length_map, List.forall_mem_map, List.all_eq_true, Rgba.fits, Bool.and_eq_true,
      decide_eq_true_eq]
    grind
  simp only [Bc7Fields.wf, hi, Bool.and_eq_true, decide_eq_true_eq, and_assoc]
  constructor
  · rintro ⟨hshape, hrot, himode, hlen, hall, hpbits, hw1, hw2⟩
    obtain ⟨hr, hg, hb, ha⟩ := hends.mp ⟨hlen, hall⟩
    exact ⟨hshape, hrot, himode, hr, hg, hb, ha, hpbits, hw1, hw2⟩
  · rintro ⟨hshape, hrot, himode, hr, hg, hb, ha, hpbits, hw1, hw2⟩
    obtain ⟨hlen, hall⟩ := hends.mpr ⟨hr, hg, hb, ha⟩
    exact ⟨hshape, hrot, himode, hlen, hall, hpbits, hw1, hw2⟩

/-! ### The fields of a block -/

/-- The channels of the endpoints read are the columns read (R141, R265). -/
theorem map_ends_bc7Parse (mode : Nat) (i : Bc7Info) (blk : Block) :
    let ne := 2 * (i.pc + 1)
    let cur := mode + 1 + i.pb + i.rb + i.imb
    (bc7Parse mode i blk).ends.map (·.r) = (Bits.getList blk cur (List.replicate ne i.prec.r)).1 ∧
      (bc7Parse mode i blk).ends.map (·.g) =
        (Bits.getList blk (cur + ne * i.prec.r) (List.replicate ne i.prec.g)).1 ∧
      (bc7Parse mode i blk).ends.map (·.b) =
        (Bits.getList blk (cur + ne * i.prec.r + ne * i.prec.g) (List.replicate ne i.prec.b)).1 ∧
      (bc7Parse mode i blk).ends.map (·.a) =
        (Bits.getList blk (cur + ne * i.prec.r + ne * i.prec.g + ne * i.prec.b) (List.replicate ne i.prec.a)).1 := by
  have hlen : ∀ cur p, (Bits.getList blk cur (List.replicate (2 * (i.pc + 1)) p)).1.length = 2 * (i.pc + 1) :=
    fun cur p => (fieldsFit_replicate.mp (Bits.fieldsFit_getList blk _ _)).1
  have hcur : ∀ cur p, (Bits.getList blk cur (List.replicate (2 * (i.pc + 1)) p)).2 = cur + 2 * (i.pc + 1) * p :=
    fun cur p => by rw [Bits.getList_cursor, List.sum_replicate, smul_eq_mul]
  simp only [bc7Parse, Bits.getBits, hcur]
  exact map_rgbaList (hlen _ _) (hlen _ _) (hlen _ _) (hlen _ _)

/-- The fields read are within the widths of the mode (R141 to R152). -/
theorem bc7Parse_fits (mode : Nat) (i : Bc7Info) (blk : Block) : (bc7Parse mode i blk).Fits i := by
  obtain ⟨hr, hg, hb, ha⟩ := map_ends_bc7Parse mode i blk
  have hfit := Bits.fieldsFit_getList blk
  exact {
    shape := Bits.getBits_lt blk _ _
    rot := Bits.getBits_lt blk _ _
    imode := Bits.getBits_lt blk _ _
    r := hr ▸ hfit _ _
    g := hg ▸ hfit _ _
    b := hb ▸ hfit _ _
    a := ha ▸ hfit _ _
    pbits := hfit _ _
    w1 := hfit _ _
    w2 := hfit _ _ }

/-- The bits of a block of a valid BC7 mode. -/
def bc7Bits (mode : Nat) (i : Bc7Info) (f : Bc7Fields) : List Bool :=
  let ne := 2 * (i.pc + 1)
  Bits.ofField (mode + 1) (1 <<< mode) ++ Bits.ofField i.pb f.shape ++ Bits.ofField i.rb f.rot ++
    Bits.ofField i.imb f.imode ++ Bits.ofFields (List.replicate ne i.prec.r) (f.ends.map (·.r)) ++
    Bits.ofFields (List.replicate ne i.prec.g) (f.ends.map (·.g)) ++
    Bits.ofFields (List.replicate ne i.prec.b) (f.ends.map (·.b)) ++
    Bits.ofFields (List.replicate ne i.prec.a) (f.ends.map (·.a)) ++
    Bits.ofFields (List.replicate i.np 1) f.pbits ++
    Bits.ofFields (Rom.indexWidths i.pc f.shape i.ip) f.w1 ++ Bits.ofFields (Rom.secondaryWidths i.ip2) f.w2

theorem encodeBc7_eq (hi : Rom.bc7Info mode = some i) (f : Bc7Fields) :
    encodeBc7 mode f = Bits.toBlock (bc7Bits mode i f) := by
  unfold encodeBc7
  rw [hi]
  rfl

theorem length_bc7Bits (hi : Rom.bc7Info mode = some i) {f : Bc7Fields} (hf : f.Fits i) :
    (bc7Bits mode i f).length = 128 := by
  obtain ⟨-, -, hpb, -⟩ := bc7Info_bounds hi
  have hsum := bc7_fields_fit hi (hf.shape.trans_le (Nat.pow_le_pow_right (by decide) hpb))
  have halpha : (if i.prec.a = 0 then [] else List.replicate (2 * (i.pc + 1)) i.prec.a).sum =
      2 * (i.pc + 1) * i.prec.a := by
    split <;> simp_all
  simp only [bc7Bits, List.length_append, Bits.length_ofField, Bits.length_ofFields_of_fit, hf.r, hf.g, hf.b, hf.a,
    hf.pbits, hf.w1, hf.w2]
  simp only [Bc7.fieldWidths, List.sum_append, List.sum_cons, List.sum_nil, halpha, List.sum_replicate,
    smul_eq_mul] at hsum ⊢
  omega

/-- Encoding the fields read from a block gives the block again (R141 to R152). -/
theorem encodeBc7_bc7Parse {blk : Block} (hi : Rom.bc7Info mode = some i) (hmode : bc7ModeRead blk = mode) :
    encodeBc7 mode (bc7Parse mode i blk) = blk := by
  have hfits := bc7Parse_fits mode i blk
  have hlen := length_bc7Bits hi hfits
  obtain ⟨hr, hg, hb, ha⟩ := map_ends_bc7Parse mode i blk
  have hprefix : Bits.ofField (mode + 1) (1 <<< mode) = Bits.slice blk 0 (mode + 1) :=
    hmode ▸ ofField_prefix (by rw [hmode]; exact Nat.lt_succ_of_le (bc7Info_bounds hi).1)
  have hbits : ∃ n, bc7Bits mode i (bc7Parse mode i blk) = Bits.slice blk 0 n := by
    simp only [bc7Bits, hprefix, hr, hg, hb, ha, Bits.ofFields_getList]
    simp only [bc7Parse, Bits.getBits_cursor, Bits.getList_cursor, Bits.ofField_getBits, Bits.ofFields_getList,
      Bits.slice_zero_append, List.sum_replicate, smul_eq_mul]
    exact ⟨_, rfl⟩
  obtain ⟨n, hn⟩ := hbits
  obtain rfl : n = 128 := by rw [← hlen, hn, Bits.length_slice]
  rw [encodeBc7_eq hi, hn, Bits.toBlock_slice]

/-- Fields within their widths that encode alike are the same (R141 to R152). -/
theorem encodeBc7_injective (hi : Rom.bc7Info mode = some i) {f g : Bc7Fields} (hf : f.Fits i) (hg : g.Fits i)
    (h : encodeBc7 mode f = encodeBc7 mode g) : f = g := by
  rw [encodeBc7_eq hi, encodeBc7_eq hi] at h
  have hbits := Bits.toBlock_injective (length_bc7Bits hi hf) (length_bc7Bits hi hg) h
  simp only [bc7Bits, List.append_assoc] at hbits
  have hbits := List.append_cancel_left hbits
  obtain ⟨hshape, hbits⟩ := Bits.ofField_append_inj hf.shape hg.shape hbits
  obtain ⟨hrot, hbits⟩ := Bits.ofField_append_inj hf.rot hg.rot hbits
  obtain ⟨himode, hbits⟩ := Bits.ofField_append_inj hf.imode hg.imode hbits
  obtain ⟨hr, hbits⟩ := Bits.ofFields_append_inj hf.r hg.r hbits
  obtain ⟨hg', hbits⟩ := Bits.ofFields_append_inj hf.g hg.g hbits
  obtain ⟨hb, hbits⟩ := Bits.ofFields_append_inj hf.b hg.b hbits
  obtain ⟨ha, hbits⟩ := Bits.ofFields_append_inj hf.a hg.a hbits
  obtain ⟨hpbits, hbits⟩ := Bits.ofFields_append_inj hf.pbits hg.pbits hbits
  rw [hshape] at hbits
  obtain ⟨hw1, hbits⟩ := Bits.ofFields_append_inj (hshape ▸ hf.w1) hg.w1 hbits
  obtain ⟨hw2, -⟩ := Bits.ofFields_append_inj (as := []) (bs := []) hf.w2 hg.w2 (by simpa using hbits)
  have hends : f.ends = g.ends := by rw [← rgbaList_map f.ends, hr, hg', hb, ha, rgbaList_map]
  cases f
  cases g
  simp only [Bc7Fields.mk.injEq]
  exact ⟨hshape, hrot, himode, hends, hpbits, hw1, hw2⟩

/-! ### The BC7 decoder on an encoding -/

/-- The instruction of a valid BC7 mode (R140). -/
def bc7Instr (mode : Nat) (f : Bc7Fields) : Instr :=
  match mode with
  | 0 => .bc7Mode0 f
  | 1 => .bc7Mode1 f
  | 2 => .bc7Mode2 f
  | 3 => .bc7Mode3 f
  | 4 => .bc7Mode4 f
  | 5 => .bc7Mode5 f
  | 6 => .bc7Mode6 f
  | _ => .bc7Mode7 f

theorem bc7Instr_encode (hi : Rom.bc7Info mode = some i) (f : Bc7Fields) :
    (bc7Instr mode f).wf = f.wf mode ∧ encode (bc7Instr mode f) = .bc7 (encodeBc7 mode f) := by
  unfold Rom.bc7Info at hi
  split at hi <;> cases hi <;> exact ⟨rfl, rfl⟩

theorem decodeBc7Block_eq {blk : Block} (hmode : bc7ModeRead blk = mode) (hi : Rom.bc7Info mode = some i) :
    decodeBc7Block blk = bc7Instr mode (bc7Parse mode i blk) := by
  simp only [decodeBc7Block, hmode, hi]
  rfl

/-- Decoding the encoding of fields within their widths reads them back (R140 to R152). -/
theorem decodeBc7Block_encodeBc7 {f : Bc7Fields} (hf : f.wf mode = true) :
    decodeBc7Block (encodeBc7 mode f) = bc7Instr mode f := by
  cases hi : Rom.bc7Info mode with
  | none => simp [Bc7Fields.wf, hi] at hf
  | some i =>
    have hmode := bc7ModeRead_encodeBc7 (Nat.lt_succ_of_le (bc7Info_bounds hi).1) f
    rw [decodeBc7Block_eq hmode hi, encodeBc7_injective hi (bc7Parse_fits mode i _) ((bc7Fields_wf_iff hi f).mp hf)
      (encodeBc7_bc7Parse hi hmode)]

end

/-- The reserved mode is that of a zero first byte (R140, R150). -/
theorem bc7ModeRead_eq_eight (blk : Block) : bc7ModeRead blk = 8 ↔ blk.toNat % 2 ^ 8 = 0 := by
  rw [(bc7UnaryMode blk).2]
  constructor
  · intro h
    refine Nat.eq_of_testBit_eq fun k => ?_
    rw [Nat.testBit_mod_two_pow, Nat.zero_testBit]
    by_cases hk : k < 8
    · rw [decide_eq_true hk, Bool.true_and]
      exact h k hk
    · rw [decide_eq_false hk, Bool.false_and]
  · intro h k hk
    have hbit : (blk.toNat % 2 ^ 8).testBit k = false := by rw [h]; exact Nat.zero_testBit k
    rwa [Nat.testBit_mod_two_pow, decide_eq_true hk, Bool.true_and] at hbit

/-- A block with a zero first byte is the reserved instruction of its other bits (R150). -/
theorem decodeBc7Block_reserved {blk : Block} (h : blk.toNat % 2 ^ 8 = 0) :
    decodeBc7Block blk = .bc7Reserved (BitVec.ofNat 120 (blk.toNat >>> 8)) := by
  simp only [decodeBc7Block, (bc7ModeRead_eq_eight blk).mpr h]
  rfl

/-- Every BC7 block is the encoding of the well-formed instruction it decodes to (R150, R151). -/
theorem encode_decodeBc7Block (blk : Block) : (decodeBc7Block blk).wf = true ∧ encode (decodeBc7Block blk) = .bc7 blk := by
  by_cases hmode : bc7ModeRead blk = 8
  · have hlow := (bc7ModeRead_eq_eight blk).mp hmode
    rw [decodeBc7Block_reserved hlow]
    refine ⟨rfl, congrArg Encoded.bc7 ?_⟩
    have happend := append_shift_mod (m := 120) (n := 8) blk
    rwa [hlow] at happend
  · have hinfo : ∀ m < 8, (Rom.bc7Info m).isSome = true := by decide
    obtain ⟨i, hi⟩ := Option.isSome_iff_exists.mp (hinfo _ (lt_of_le_of_ne (bc7ModeRead_le blk) hmode))
    obtain ⟨hwf, henc⟩ := bc7Instr_encode hi (bc7Parse _ i blk)
    rw [decodeBc7Block_eq rfl hi, hwf, henc, encodeBc7_bc7Parse hi rfl]
    exact ⟨(bc7Fields_wf_iff hi _).mpr (bc7Parse_fits _ i blk), rfl⟩

/-- Settles O2: the fields read are within their widths, and their bits are the block's. -/
theorem encodeDecodeBlock : Obligations.EncodeDecodeBlock :=
  ⟨encode_of_decodeBc6hBlock, encode_decodeBc7Block⟩

end Sys2Proof.Machine

/-! PROOFS. The requests (R155 to R157): the fields of the command byte, what the request decoder answers, and the round trip of
every instruction. -/

namespace Sys2Proof.Machine

/-! ### The command byte -/

section

variable (scr : Bool) (layout : BitVec 2) (signed : Bool) (op : BitVec 2)

theorem cmdByte_reserved : (cmdByte scr layout signed op).extractLsb' 6 2 = 0#2 := by
  revert scr layout signed op; decide

theorem cmdByte_scr : (cmdByte scr layout signed op).getLsbD 5 = scr := by
  revert scr layout signed op; decide

theorem cmdByte_layout : (cmdByte scr layout signed op).extractLsb' 3 2 = layout := by
  revert scr layout signed op; decide

theorem cmdByte_signed : (cmdByte scr layout signed op).getLsbD 2 = signed := by
  revert scr layout signed op; decide

theorem cmdByte_op : (cmdByte scr layout signed op).extractLsb' 0 2 = op := by
  revert scr layout signed op; decide

theorem cmdByte_form : (cmdByte scr layout signed op).extractLsb' 2 3 = layout ++ BitVec.ofBool signed := by
  revert scr layout signed op; decide

end

/-- A command byte with its reserved bits 0 is put together from its fields. -/
theorem cmdByte_fields {cmd : Byte} (h : cmd.extractLsb' 6 2 = 0#2) :
    cmdByte (cmd.getLsbD 5) (cmd.extractLsb' 3 2) (cmd.getLsbD 2) (cmd.extractLsb' 0 2) = cmd := by
  revert cmd; decide

/-! ### What the request decoder answers -/

/-- The instruction of a command byte and an operand record: by its operation, with the checks of R157 (2) to (5) passed. -/
inductive Requests (cmd : Byte) (o : Operands) : Instr → Prop
  | decodeBc6h (hop : cmd.extractLsb' 0 2 = 0b00#2) (hscr : cmd.getLsbD 5 = false) (hout : 16 ≤ o.out.entries) :
      Requests cmd o (.decodeBc6h (cmd.getLsbD 2) (layoutOfCode (cmd.extractLsb' 3 2)) o.blk o.out)
  | decodeBc7 (hop : cmd.extractLsb' 0 2 = 0b01#2) (hform : cmd.extractLsb' 2 3 = 0#3) (hscr : cmd.getLsbD 5 = false)
      (hout : 16 ≤ o.out.entries) : Requests cmd o (.decodeBc7 o.blk o.out)
  | load {r : Option ScratchRef} (hop : cmd.extractLsb' 0 2 = 0b10#2) (hform : cmd.extractLsb' 2 3 = 0#3)
      (hscr : scratchOperand (cmd.getLsbD 5) o.scratch = .ok r) : Requests cmd o (.load r o.smp o.coord o.sel)
  | sample {r : Option ScratchRef} (hop : cmd.extractLsb' 0 2 = 0b11#2) (hform : cmd.extractLsb' 2 3 = 0#3)
      (hscr : scratchOperand (cmd.getLsbD 5) o.scratch = .ok r) : Requests cmd o (.sample r o.smp o.coord o.sel)

theorem map_eq_ok {ε α β : Type} {x : Except ε α} {f : α → β} {y : β} (h : x.map f = .ok y) : ∃ a, x = .ok a ∧ y = f a := by
  cases x <;> cases h
  exact ⟨_, rfl, rfl⟩

/-- A request decodes exactly when its reserved bits are 0 and its operation's checks pass (R155 to R157). -/
theorem decodeRequest_eq_ok_iff {cmd : Byte} {o : Operands} {i : Instr} :
    decodeRequest cmd o = .ok i ↔ cmd.extractLsb' 6 2 = 0#2 ∧ Requests cmd o i := by
  constructor
  · intro h
    unfold decodeRequest at h
    dsimp only at h
    split at h
    next => cases h
    next hreserved =>
    rw [not_not] at hreserved
    refine ⟨hreserved, ?_⟩
    split at h
    next => cases h
    next hform =>
    rw [not_and_not_right] at hform
    split at h
    next hop =>
      split at h
      · cases h
      split at h <;> cases h
      exact .decodeBc6h hop (by simpa using ‹¬ cmd.getLsbD 5 = true›) (by omega)
    next hop =>
      split at h
      · cases h
      split at h <;> cases h
      exact .decodeBc7 hop (hform (by rw [hop]; decide)) (by simpa using ‹¬ cmd.getLsbD 5 = true›) (by omega)
    next hop =>
      obtain ⟨r, hr, rfl⟩ := map_eq_ok h
      exact .load hop (hform (by rw [hop]; decide)) hr
    next hop =>
      obtain ⟨r, hr, rfl⟩ := map_eq_ok h
      exact .sample hop (hform (by rw [hop]; decide)) hr
  · rintro ⟨hreserved, h⟩
    unfold decodeRequest
    cases h with
    | decodeBc6h hop hscr hout =>
      simp [hreserved, hop, hscr, Nat.not_lt.mpr hout, -BitVec.getLsbD_eq_getElem]
    | decodeBc7 hop hform hscr hout =>
      simp [hreserved, hop, hform, hscr, Nat.not_lt.mpr hout, -BitVec.getLsbD_eq_getElem]
    | load hop hform hscr => simp [hreserved, hop, hform, hscr, Except.map, -BitVec.getLsbD_eq_getElem]
    | sample hop hform hscr => simp [hreserved, hop, hform, hscr, Except.map, -BitVec.getLsbD_eq_getElem]

theorem scratchOperand_isNone (scr : Option ScratchRef) : scratchOperand scr.isNone scr = .ok scr := by
  cases scr <;> rfl

theorem isNone_of_scratchOperand {b : Bool} {named scr : Option ScratchRef} (h : scratchOperand b named = .ok scr) :
    scr.isNone = b := by
  cases b <;> cases named <;> cases h <;> rfl

@[simp] theorem layoutOfCode_codeOfLayout (l : Layout) : layoutOfCode (codeOfLayout l) = l := by cases l <;> rfl

@[simp] theorem codeOfLayout_layoutOfCode (c : BitVec 2) : codeOfLayout (layoutOfCode c) = c := by
  revert c; decide

/-- Decoding the encoding of a well-formed request gives it back (R155, R156). -/
theorem decode_encode_request {i : Instr} (hreq : isRequest i = true) (hwf : i.wf = true) : decode (encode i) = .ok i := by
  cases i with
  | decodeBc6h signed layout blk out =>
    have h := Requests.decodeBc6h (o := { Operands.zero with blk := blk, out := out })
      (cmdByte_op false (codeOfLayout layout) signed 0b00#2) (cmdByte_scr ..) (of_decide_eq_true hwf)
    rw [cmdByte_signed, cmdByte_layout, layoutOfCode_codeOfLayout] at h
    exact decodeRequest_eq_ok_iff.mpr ⟨cmdByte_reserved .., h⟩
  | decodeBc7 blk out =>
    exact decodeRequest_eq_ok_iff.mpr ⟨cmdByte_reserved .., Requests.decodeBc7
      (o := { Operands.zero with blk := blk, out := out }) (cmdByte_op ..) (cmdByte_form _ 0#2 false _) (cmdByte_scr ..)
      (of_decide_eq_true hwf)⟩
  | load scr smp texel sel =>
    exact decodeRequest_eq_ok_iff.mpr ⟨cmdByte_reserved ..,
      .load (cmdByte_op ..) (cmdByte_form _ 0#2 false _) (by rw [cmdByte_scr, scratchOperand_isNone])⟩
  | sample scr smp uv sel =>
    exact decodeRequest_eq_ok_iff.mpr ⟨cmdByte_reserved ..,
      .sample (cmdByte_op ..) (cmdByte_form _ 0#2 false _) (by rw [cmdByte_scr, scratchOperand_isNone])⟩
  | _ => cases hreq

/-- A request's instruction encodes to its command byte (R155). -/
theorem Requests.encode_eq {cmd : Byte} {o : Operands} {i : Instr} (hreserved : cmd.extractLsb' 6 2 = 0#2)
    (h : Requests cmd o i) : ∃ o', encode i = .request cmd o' := by
  have hcmd := cmdByte_fields hreserved
  have hzero : cmd.extractLsb' 2 3 = 0#3 → cmd.extractLsb' 3 2 = 0#2 ∧ cmd.getLsbD 2 = false := by
    have hall : ∀ (layout : BitVec 2) (signed : Bool), layout ++ BitVec.ofBool signed = 0#3 →
        layout = 0#2 ∧ signed = false := by decide
    intro hform
    rw [← hcmd, cmdByte_form] at hform
    exact hall _ _ hform
  cases h with
  | decodeBc6h hop hscr hout =>
    rw [hop, hscr] at hcmd
    exact ⟨_, by rw [encode, codeOfLayout_layoutOfCode, hcmd]⟩
  | decodeBc7 hop hform hscr hout =>
    rw [hop, hscr, (hzero hform).1, (hzero hform).2] at hcmd
    exact ⟨_, congrArg (Encoded.request · _) hcmd⟩
  | load hop hform hscr =>
    rw [hop, ← isNone_of_scratchOperand hscr, (hzero hform).1, (hzero hform).2] at hcmd
    exact ⟨_, congrArg (Encoded.request · _) hcmd⟩
  | sample hop hform hscr =>
    rw [hop, ← isNone_of_scratchOperand hscr, (hzero hform).1, (hzero hform).2] at hcmd
    exact ⟨_, congrArg (Encoded.request · _) hcmd⟩

/-- Decoding the encoding of a well-formed block instruction gives it back (R111 to R152). -/
theorem decode_encode_block {i : Instr} (hreq : isRequest i = false) (hwf : i.wf = true) : decode (encode i) = .ok i := by
  cases i with
  | bc6hM1 signed layout f | bc6hM2 signed layout f | bc6hM3 signed layout f | bc6hM4 signed layout f
  | bc6hM5 signed layout f | bc6hM6 signed layout f | bc6hM7 signed layout f | bc6hM8 signed layout f
  | bc6hM9 signed layout f | bc6hM10 signed layout f | bc6hM11 signed layout f | bc6hM12 signed layout f
  | bc6hM13 signed layout f | bc6hM14 signed layout f =>
    rw [Instr.wf] at hwf
    exact decodeBc6hBlock_encodeBc6h hwf signed layout
  | bc6hReserved13 signed layout rest | bc6hReserved17 signed layout rest | bc6hReserved1B signed layout rest
  | bc6hReserved1F signed layout rest => exact decodeBc6hBlock_reserved (.inr (by decide)) rfl signed layout rest
  | bc7Mode0 f | bc7Mode1 f | bc7Mode2 f | bc7Mode3 f | bc7Mode4 f | bc7Mode5 f | bc7Mode6 f | bc7Mode7 f =>
    exact congrArg Except.ok (decodeBc7Block_encodeBc7 hwf)
  | bc7Reserved rest =>
    have h := decodeBc7Block_reserved (blk := rest ++ 0#8) (mod_of_append rest 0#8)
    rw [shift_of_append] at h
    exact congrArg Except.ok h
  | decodeBc6h | decodeBc7 | load | sample => cases hreq

/-- Settles O1: a block's fields and a request's command byte are read back from their encodings. -/
theorem decodeEncode : Obligations.DecodeEncode := by
  intro i hwf
  cases hreq : isRequest i with
  | false => exact decode_encode_block hreq hwf
  | true => exact decode_encode_request hreq hwf

/-- Settles O3: the instruction's command byte is the request's own, and its encoding decodes to it by O1. -/
theorem encodeDecodeRequest : Obligations.EncodeDecodeRequest := by
  intro cmd o i h
  obtain ⟨hreserved, hi⟩ := decodeRequest_eq_ok_iff.mp h
  have hwf := wf_of_decodeRequest h
  obtain ⟨o', henc⟩ := hi.encode_eq hreserved
  have hdec := decodeEncode i hwf
  rw [henc] at hdec
  exact ⟨hwf, o', henc, hdec⟩

end Sys2Proof.Machine

/-! PROOFS. What the step does with a refused request (R157) and with a placed table word, the lengths of the layouts (R130, R151),
and words written out by hand (R158, R159). -/

namespace Sys2Proof.Machine

/-! ### Refused requests -/

/-- R157's five cases. -/
def Refused (cmd : Byte) (o : Operands) : Prop :=
  cmd.extractLsb' 6 2 ≠ 0#2 ∨ (cmd.extractLsb' 0 2 ≠ 0b00#2 ∧ cmd.extractLsb' 2 3 ≠ 0#3) ∨
    ((cmd.extractLsb' 0 2 = 0b00#2 ∨ cmd.extractLsb' 0 2 = 0b01#2) ∧ cmd.getLsbD 5 = true) ∨
    ((cmd.extractLsb' 0 2 = 0b00#2 ∨ cmd.extractLsb' 0 2 = 0b01#2) ∧ o.out.entries < 16) ∨
    ((cmd.extractLsb' 0 2 = 0b10#2 ∨ cmd.extractLsb' 0 2 = 0b11#2) ∧ cmd.getLsbD 5 = false ∧ o.scratch = none)

/-- A request that decodes is in none of the cases. -/
theorem not_refused_of_ok {cmd : Byte} {o : Operands} {i : Instr} (h : decodeRequest cmd o = .ok i) : ¬ Refused cmd o := by
  obtain ⟨hreserved, h⟩ := decodeRequest_eq_ok_iff.mp h
  have hscratch : ∀ {r}, scratchOperand (cmd.getLsbD 5) o.scratch = .ok r →
      ¬ (cmd.getLsbD 5 = false ∧ o.scratch = none) := by
    rintro r hr ⟨hscr, hnone⟩
    rw [hscr, hnone] at hr
    cases hr
  unfold Refused
  cases h with
  | decodeBc6h hop hscr hout => simp [hreserved, hop, hscr, hout, -BitVec.getLsbD_eq_getElem]
  | decodeBc7 hop hform hscr hout => simp [hreserved, hop, hform, hscr, hout, -BitVec.getLsbD_eq_getElem]
  | load hop hform hscr | sample hop hform hscr =>
    simpa [hreserved, hop, hform, -BitVec.getLsbD_eq_getElem] using hscratch hscr

/-- A request in none of the cases decodes. -/
theorem ok_of_not_refused {cmd : Byte} {o : Operands} (h : ¬ Refused cmd o) : ∃ i, decodeRequest cmd o = .ok i := by
  simp only [Refused, ne_eq, not_or, not_and, not_not, Bool.not_eq_true, not_lt] at h
  obtain ⟨hreserved, hform, hscr, hout, hnamed⟩ := h
  have hscratch : (cmd.getLsbD 5 = false → o.scratch ≠ none) →
      ∃ r, scratchOperand (cmd.getLsbD 5) o.scratch = .ok r := by
    intro hnone
    cases hb : cmd.getLsbD 5 with
    | true => exact ⟨_, rfl⟩
    | false =>
      obtain ⟨r, hr⟩ := Option.ne_none_iff_exists'.mp (hnone hb)
      exact ⟨some r, by rw [hr]; rfl⟩
  have hops : ∀ op : BitVec 2, op = 0b00#2 ∨ op = 0b01#2 ∨ op = 0b10#2 ∨ op = 0b11#2 := by decide
  simp only [decodeRequest_eq_ok_iff, hreserved, true_and]
  rcases hops (cmd.extractLsb' 0 2) with hop | hop | hop | hop
  · exact ⟨_, .decodeBc6h hop (hscr (.inl hop)) (hout (.inl hop))⟩
  · exact ⟨_, .decodeBc7 hop (hform (by rw [hop]; decide)) (hscr (.inr hop)) (hout (.inr hop))⟩
  · obtain ⟨r, hr⟩ := hscratch (hnamed (.inl hop))
    exact ⟨_, .load hop (hform (by rw [hop]; decide)) hr⟩
  · obtain ⟨r, hr⟩ := hscratch (hnamed (.inr hop))
    exact ⟨_, .sample hop (hform (by rw [hop]; decide)) hr⟩

/-- A request in one of the cases does not decode. -/
theorem error_of_refused {cmd : Byte} {o : Operands} (h : Refused cmd o) : ∃ r, decodeRequest cmd o = .error r := by
  cases hd : decodeRequest cmd o with
  | error r => exact ⟨r, rfl⟩
  | ok i => exact absurd h (not_refused_of_ok hd)

/-- Settles O36: the decoder answers an error exactly in R157's cases, and the step then drops the request alone. -/
theorem refusedRequests : Obligations.RefusedRequests := by
  intro r rest s hqueue
  refine ⟨fun hrefused => ?_, ok_of_not_refused⟩
  obtain ⟨why, herror⟩ := error_of_refused hrefused
  refine ⟨fun hagenda hactive => ?_, fun ev hagenda => ?_⟩
  · rw [step_nil s hagenda]
    simp only [stepUnit, hactive, hqueue, stepRequest, herror]
  · rw [step_cons s .issue ev hagenda]
    simp only [stepEvent, State.issueNext, hqueue, herror]

/-! ### A placed table word -/

/-- With no event due, the running activation's captured block, decoded, is what the step runs. -/
theorem step_decoding {s : State} {a : Activation} {rest : List Activation} {sp : Space} {i : Instr} (hagenda : s.agenda = [])
    (hactive : s.active = a :: rest) (hphase : a.phase = .decoding) (hsp : a.fmt.space = some sp)
    (hdec : decodeBytes sp Operands.zero a.bytes = .ok i) : step s = exec i s := by
  rw [step_nil s hagenda]
  simp only [stepUnit, hactive, stepActive, hphase, hsp, hdec]

/-- With nothing in progress, the oldest request, decoded, is what the step runs. -/
theorem step_request {s : State} {r : Request} {rest : List Request} {i : Instr} (hagenda : s.agenda = [])
    (hactive : s.active = []) (hqueue : s.queue = r :: rest) (hdec : decodeRequest r.cmd r.ops = .ok i) :
    step s = exec i { s with queue := rest, issuer := r.requester } := by
  rw [step_nil s hagenda]
  simp only [stepUnit, hactive, hqueue, stepRequest, hdec]

/-- A word that decodes does so in the space it is read in (log 17). -/
theorem decodeBytes_of_decodeTableWord {nbits w : Nat} {i : Instr} (h : decodeTableWord nbits w = some i) :
    decodeBytes (tableSpace nbits w) Operands.tableRecord (tableBytes nbits w) = .ok i := by
  unfold decodeTableWord at h
  split at h
  next hok => cases h; exact hok
  next => cases h

/-- Settles O38: the word stands in the queue or in the one activation, where the step reads it with the same decoder. -/
theorem fetchedWordRuns : Obligations.FetchedWordRuns := by
  intro s nbits w i h
  have hdec := decodeBytes_of_decodeTableWord h
  unfold State.withFetchWord State.place
  cases hspace : tableSpace nbits w with
  | request =>
    rw [hspace] at hdec
    have hreq : decodeRequest (BitVec.ofNat 8 (w % 2 ^ nbits)) Operands.tableRecord = .ok i := hdec
    exact ⟨fun _ => step_request (r := ⟨0, _, _⟩) rfl rfl rfl hreq, fun hne => absurd rfl hne⟩
  | bc6h signed layout =>
    rw [hspace] at hdec
    exact ⟨nofun, fun _ => step_decoding rfl rfl rfl rfl hdec⟩
  | bc7 =>
    rw [hspace] at hdec
    exact ⟨nofun, fun _ => step_decoding rfl rfl rfl rfl hdec⟩

/-! ### The layouts -/

/-- No field of a valid BC7 mode is wider than a byte (R174). -/
theorem bc7_fieldWidths_le {mode : Nat} {i : Bc7Info} (h : Rom.bc7Info mode = some i) (shape : Nat) :
    ∀ w ∈ Bc7.fieldWidths i shape, w ≤ 8 := by
  obtain ⟨-, -, hpb, hrb, himb, hip, hip2⟩ := bc7Info_bounds h
  have hprec : i.prec.r ≤ 8 ∧ i.prec.g ≤ 8 ∧ i.prec.b ≤ 8 ∧ i.prec.a ≤ 8 := by
    unfold Rom.bc7Info at h
    split at h <;> cases h <;> decide
  obtain ⟨hr, hg, hb, ha⟩ := hprec
  have hcopies : ∀ {n p : Nat}, p ≤ 8 → ∀ w ∈ List.replicate n p, w ≤ 8 := fun hp w hw =>
    (List.eq_of_mem_replicate hw).trans_le hp
  have halpha : ∀ w ∈ (if i.prec.a = 0 then [] else List.replicate (2 * (i.pc + 1)) i.prec.a), w ≤ 8 := by
    split
    · exact nofun
    · exact hcopies ha
  simp only [Bc7.fieldWidths, List.forall_mem_append, List.forall_mem_cons, and_assoc]
  exact ⟨by omega, by omega, by omega, nofun, hcopies hr, hcopies hg, hcopies hb, halpha, hcopies (by decide),
    fun w hw => (indexWidths_le _ _ _ w hw).trans (by omega), fun w hw => (secondaryWidths_le _ w hw).trans (by omega)⟩

/-- Settles O8: the header by its map, the index sections and the BC7 fields by their sums, the widths by the records. -/
theorem layoutLengths : Obligations.LayoutLengths := by
  refine ⟨fun code _ i hi d hd => ?_, fun mode _ i hi shape hshape => ?_⟩
  · rw [Option.mem_toList] at hi
    have hw : ∀ w ∈ Rom.indexWidths i.pc d i.ib, w ≤ 8 := fun w hw =>
      (indexWidths_le _ _ _ w hw).trans ((bc6hInfo_bounds hi).1.trans (by decide))
    exact ⟨length_bc6hDesc hi, (bc6h_indices_fit hi hd).1, List.all_eq_true.mpr fun w hmem => decide_eq_true (hw w hmem)⟩
  · rw [Option.mem_toList] at hi
    exact ⟨bc7_fields_fit hi hshape, List.all_eq_true.mpr fun w hw => decide_eq_true (bc7_fieldWidths_le hi shape w hw)⟩

/-- Settles O4, each word by evaluating its decoder. -/
theorem decodeWords : Obligations.DecodeWords := by
  refine ⟨?_, ?_, ?_, ?_, ?_, ?_, ?_, ?_⟩ <;> decide +kernel

end Sys2Proof.Machine

/-! PROOFS. The bit cursor: what a read of several bits gives (R171, R172). -/

namespace Sys2Proof.Bits

/-- A read of width 0 gives 0 and leaves the cursor (R172). -/
@[simp] theorem getBits_zero (blk : Block) (cur : Nat) : getBits blk cur 0 = (0, cur) := by simp [getBits, Nat.mod_one]

/-- A read one bit wider has that bit on top. -/
theorem getBits_succ_value (blk : Block) (cur n : Nat) :
    (getBits blk cur (n + 1)).1 = (getBits blk cur n).1 + (blk.getLsbD (cur + n)).toNat * 2 ^ n := by
  have hbit : (blk.getLsbD (cur + n)).toNat = blk.toNat >>> cur / 2 ^ n % 2 := by
    rw [← Nat.toNat_testBit, Nat.testBit_shiftRight, BitVec.getLsbD]
  rw [getBits, getBits, Nat.mod_pow_succ, hbit, Nat.mul_comm]

/-- A read gives the sum of the bits read, bit cur + j with weight 2^j (R171). -/
theorem getBits_value_eq_sum (blk : Block) (cur : Nat) : ∀ n,
    (getBits blk cur n).1 = ((List.range n).map fun j => (blk.getLsbD (cur + j)).toNat * 2 ^ j).sum
  | 0 => by simp
  | n + 1 => by
    rw [getBits_succ_value, getBits_value_eq_sum blk cur n, List.range_succ, List.map_append, List.sum_append]
    simp

end Sys2Proof.Bits

namespace Sys2Proof.Machine

/-- Settles O7: the value by its bits, one read bit wider at a time, and the cursor by the definition. -/
theorem getBitsValue : Obligations.GetBitsValue := fun blk cur n _ _ =>
  ⟨Prod.ext (Bits.getBits_value_eq_sum blk cur n) (Bits.getBits_cursor blk cur n), Bits.getBits_zero blk cur⟩

end Sys2Proof.Machine

/-! PROOFS. The arithmetic of a BC6H channel (R300 to R306, R310): the curves, the interpolation and the conversion to a half keep
the order of the values, and each keeps them within the width of the next. -/

namespace Sys2Proof.Rom

/-- A greater index of 4 bits has no smaller weight (R300). -/
theorem weight_four_mono {k k' : Nat} (h : k ≤ k') (hk' : k' < 16) : weight 4 k ≤ weight 4 k' := by
  obtain ⟨-, -, hrise⟩ := weightTables 4 (.inr (.inr rfl))
  rcases h.lt_or_eq with hlt | rfl
  · exact (hrise k (hlt.trans hk') k' hk' hlt).le
  · exact le_rfl

theorem weight_four_le {k : Nat} (hk : k < 16) : weight 4 k ≤ 64 :=
  weight_four_mono (k' := 15) (by omega) (by decide)

end Sys2Proof.Rom

namespace Sys2Proof.Machine.Color

open Sys2Proof.Spec (halfOrder)

/-! ### Values of a width -/

/-- The value is one of a p-bit channel, unsigned or in two's complement (R310). -/
def InWidth (signed : Bool) (p : Nat) (c : Int) : Prop :=
  if signed = true then -(2 ^ (p - 1)) ≤ c ∧ c < 2 ^ (p - 1) else 0 ≤ c ∧ c < 2 ^ p

@[simp] theorem inWidth_unsigned (p : Nat) (c : Int) : InWidth false p c ↔ 0 ≤ c ∧ c < 2 ^ p := Iff.rfl

@[simp] theorem inWidth_signed (p : Nat) (c : Int) : InWidth true p c ↔ -(2 ^ (p - 1)) ≤ c ∧ c < 2 ^ (p - 1) := Iff.rfl

/-- What lies between two values of a width is one too. -/
theorem InWidth.between {signed : Bool} {p : Nat} {a b c : Int} (ha : InWidth signed p a) (hb : InWidth signed p b)
    (hac : a ≤ c) (hcb : c ≤ b) : InWidth signed p c := by
  cases signed
  · exact ⟨ha.1.trans hac, hcb.trans_lt hb.2⟩
  · exact ⟨ha.1.trans hac, hcb.trans_lt hb.2⟩

theorem InWidth.toNat_lt {p : Nat} {c : Int} (h : InWidth false p c) : c.toNat < 2 ^ p :=
  (Int.toNat_lt h.1).mpr (by exact_mod_cast h.2)

/-! ### Sign extension (R302) -/

/-- A sign-extended value is one of its width (R302). -/
theorem sext_inWidth {n : Nat} (hn : 1 ≤ n) (v : Int) : InWidth true n (sext n v) := by
  obtain ⟨k, rfl⟩ := Nat.exists_eq_add_of_le' hn
  have hpos : (0 : Int) < 2 ^ k := by positivity
  have hpow : (2 : Int) ^ (k + 1) = 2 * 2 ^ k := pow_succ' 2 k
  have hlo := Int.emod_nonneg v (b := 2 ^ (k + 1)) (by positivity)
  have hhi := Int.emod_lt_of_pos v (b := 2 ^ (k + 1)) (by positivity)
  simp only [inWidth_signed, sext, Nat.add_sub_cancel, Nat.cast_pow, Nat.cast_ofNat]
  generalize v % 2 ^ (k + 1) = m at hlo hhi ⊢
  rw [hpow] at hhi ⊢
  by_cases hm : m < 2 ^ k
  · rw [Int.ediv_eq_zero_of_lt hlo hm]
    omega
  · have hq : m / 2 ^ k = 1 := by
      rw [Int.ediv_eq_iff_of_pos hpos]
      omega
    rw [hq]
    omega

/-- A sign-extended value is congruent to the value (R302). -/
theorem dvd_sext_sub (n : Nat) (v : Int) : (2 ^ n : Int) ∣ sext n v - v := by
  have hmod : (2 ^ n : Int) ∣ v % 2 ^ n - v := Int.dvd_emod_sub_self
  simp only [sext, Nat.cast_pow, Nat.cast_ofNat]
  rw [sub_right_comm]
  exact hmod.sub (dvd_mul_right _ _)

/-! ### The curves (R303, R304) -/

/-- The unsigned curve stays within 16 bits. -/
theorem unquantizeU_le {p c : Nat} (hp : p ≤ 16) (hc : c < 2 ^ p) : unquantizeU p c ≤ 0xFFFF := by
  have hpow : 2 ^ p ≤ 2 ^ 16 := Nat.pow_le_pow_right (by decide) hp
  simp only [unquantizeU, Nat.shiftLeft_eq, Nat.shiftRight_eq_div_pow]
  split
  next => omega
  split
  next => omega
  split
  next => exact le_rfl
  next => exact Nat.le_of_lt_succ ((Nat.div_lt_iff_lt_mul (Nat.two_pow_pos p)).mpr (by omega))

theorem unquantizeU_mono {p c c' : Nat} (hp : p ≤ 16) (h : c ≤ c') (hc' : c' < 2 ^ p) :
    unquantizeU p c ≤ unquantizeU p c' := by
  by_cases h15 : 15 ≤ p
  · rwa [unquantizeU, unquantizeU, if_pos h15, if_pos h15]
  by_cases hzero : c = 0
  · simp [unquantizeU, hzero]
  have hzero' : c' ≠ 0 := by omega
  by_cases htop : c' = 2 ^ p - 1
  · rw [unquantizeU.eq_def p c', if_neg h15, if_neg hzero', if_pos htop]
    exact unquantizeU_le hp (h.trans_lt hc')
  · rw [unquantizeU, unquantizeU, if_neg h15, if_neg h15, if_neg hzero, if_neg hzero', if_neg htop, if_neg (by omega)]
    simp only [Nat.shiftLeft_eq, Nat.shiftRight_eq_div_pow]
    exact Nat.div_le_div_right (by omega)

/-- The magnitude of the signed curve (R304) stays below 2^15. -/
theorem unquantizeMag_le (p m : Nat) : unquantizeMag p m ≤ 0x7FFF := by
  simp only [unquantizeMag, Nat.shiftLeft_eq, Nat.shiftRight_eq_div_pow]
  split
  next => omega
  split
  next => exact le_rfl
  next => exact Nat.le_of_lt_succ ((Nat.div_lt_iff_lt_mul (Nat.two_pow_pos _)).mpr (by omega))

theorem unquantizeMag_mono (p : Nat) {m m' : Nat} (h : m ≤ m') : unquantizeMag p m ≤ unquantizeMag p m' := by
  by_cases hzero : m = 0
  · simp [unquantizeMag, hzero]
  have hzero' : m' ≠ 0 := by omega
  by_cases htop : 2 ^ (p - 1) - 1 ≤ m'
  · rw [unquantizeMag.eq_def p m', if_neg hzero', if_pos htop]
    exact unquantizeMag_le p m
  · rw [unquantizeMag, unquantizeMag, if_neg hzero, if_neg hzero', if_neg htop, if_neg (by omega)]
    simp only [Nat.shiftLeft_eq, Nat.shiftRight_eq_div_pow]
    exact Nat.div_le_div_right (by omega)

theorem unquantizeS_mono (p : Nat) {c c' : Int} (h : c ≤ c') : unquantizeS p c ≤ unquantizeS p c' := by
  have hmono := @unquantizeMag_mono p
  unfold unquantizeS
  split
  next => exact h
  split
  next hneg =>
    split
    next => exact neg_le_neg (Int.ofNat_le.mpr (hmono (by omega)))
    next => omega
  next hpos =>
    rw [if_neg (by omega)]
    exact Int.ofNat_le.mpr (hmono (by omega))

/-- Both curves map values of the base width to values of 16 bits (R303, R304). -/
theorem unquantize_inWidth {signed : Bool} {p : Nat} (hp : p ≤ 16) {c : Int} (hc : InWidth signed p c) :
    InWidth signed 16 (unquantize signed p c) := by
  cases signed with
  | false =>
    have hle := unquantizeU_le hp hc.toNat_lt
    simp only [inWidth_unsigned, unquantize]
    exact ⟨by simp, by simp; omega⟩
  | true =>
    have hle := unquantizeMag_le p c.natAbs
    simp only [inWidth_signed, unquantize, unquantizeS, if_true] at hc ⊢
    split
    next h16 =>
      obtain rfl : p = 16 := by omega
      exact hc
    next => split <;> omega

/-- Neither curve falls (R303, R304). -/
theorem unquantize_mono {signed : Bool} {p : Nat} (hp : p ≤ 16) {c c' : Int} (h : c ≤ c') (hc' : InWidth signed p c') :
    unquantize signed p c ≤ unquantize signed p c' := by
  cases signed with
  | true => exact unquantizeS_mono p h
  | false => exact Int.ofNat_le.mpr (unquantizeU_mono hp (by omega) hc'.toNat_lt)

/-! ### The interpolation (R301) -/

@[simp] theorem interp_zero (a b : Int) : interp a b 0 = a := by
  unfold interp
  omega

@[simp] theorem interp_sixtyFour (a b : Int) : interp a b 64 = b := by
  unfold interp
  omega

theorem interp_mono {a b : Int} (h : a ≤ b) {w w' : Nat} (hw : w ≤ w') : interp a b w ≤ interp a b w' := by
  refine Int.ediv_le_ediv (by decide) ?_
  have hrise : (b - a) * w ≤ (b - a) * w' := Int.mul_le_mul_of_nonneg_left (Int.ofNat_le.mpr hw) (by omega)
  linarith

/-- What is interpolated between two values of a width is one too. -/
theorem interp_inWidth {signed : Bool} {p : Nat} {a b : Int} (h : a ≤ b) (ha : InWidth signed p a) (hb : InWidth signed p b)
    {w : Nat} (hw : w ≤ 64) : InWidth signed p (interp a b w) := by
  refine ha.between hb ?_ ?_
  · simpa using interp_mono h (Nat.zero_le w)
  · simpa using interp_mono h hw

/-! ### The half (R305, R306) -/

theorem finish_mono (signed : Bool) {v v' : Int} (h : v ≤ v') : finish signed v ≤ finish signed v' := by
  unfold finish
  cases signed with
  | false => simpa using Int.ediv_le_ediv (by decide) (by omega)
  | true =>
    simp only [if_true]
    split <;> split <;> omega

/-- The finished integer lies within the finite halves, but that −32768 gives −0x7C00 (R210, R305). -/
theorem finish_range {signed : Bool} {v : Int} (h : InWidth signed 16 v) :
    (signed = false → 0 ≤ finish signed v) ∧ -0x7C00 ≤ finish signed v ∧ finish signed v ≤ 0x7BFF := by
  unfold finish
  cases signed with
  | false =>
    rw [inWidth_unsigned] at h
    rw [if_neg Bool.false_ne_true]
    omega
  | true =>
    rw [inWidth_signed] at h
    rw [if_pos rfl]
    refine ⟨nofun, ?_⟩
    split <;> omega

/-- A finished integer from 0 up is its half's pattern (R306). -/
theorem toNat_toHalf_of_nonneg (signed : Bool) {f : Int} (h0 : 0 ≤ f) (h : f < 2 ^ 15) :
    (toHalf signed f).toNat = f.toNat := by
  rw [toHalf, if_neg (by omega), BitVec.toNat_ofNat]
  omega

/-- One below 0 has the sign bit over its magnitude (R306). -/
theorem toNat_toHalf_of_neg {f : Int} (h0 : f < 0) (h : -2 ^ 15 < f) : (toHalf true f).toNat = 2 ^ 15 + f.natAbs := by
  have hmag : f.natAbs < 2 ^ 15 := by omega
  rw [toHalf, if_pos ⟨rfl, h0⟩, BitVec.toNat_or, BitVec.toNat_ofNat f.natAbs, Nat.mod_eq_of_lt (by omega)]
  exact (Nat.two_pow_add_eq_or_of_lt hmag 1).symm

/-- The order of a half by its pattern. -/
theorem halfOrder_eq (h : Half) : halfOrder h = if h.toNat < 2 ^ 15 then (h.toNat : Int) else 2 ^ 15 - h.toNat := by
  have hsign : h.getLsbD 15 = decide (2 ^ 15 ≤ h.toNat) := BitVec.msb_eq_decide h
  have hlt := h.isLt
  rw [halfOrder, hsign]
  simp only [decide_eq_true_eq]
  split <;> split <;> omega

/-- The halves stand in the order of the finished integers (R306). -/
theorem halfOrder_toHalf {signed : Bool} {f : Int} (hsigned : signed = false → 0 ≤ f) (hlo : -2 ^ 15 < f) (hhi : f < 2 ^ 15) :
    halfOrder (toHalf signed f) = f := by
  rw [halfOrder_eq]
  by_cases h0 : 0 ≤ f
  · rw [toNat_toHalf_of_nonneg signed h0 hhi, if_pos (by omega)]
    omega
  · obtain rfl : signed = true := by cases signed <;> simp_all
    rw [toNat_toHalf_of_neg (by omega) hlo, if_neg (by omega)]
    omega

/-- The half of a value does not fall when the value rises (R305, R306). -/
theorem halfOrder_finish_mono {signed : Bool} {v v' : Int} (h : v ≤ v') (hv : InWidth signed 16 v)
    (hv' : InWidth signed 16 v') :
    halfOrder (toHalf signed (finish signed v)) ≤ halfOrder (toHalf signed (finish signed v')) := by
  have horder : ∀ {v}, InWidth signed 16 v → halfOrder (toHalf signed (finish signed v)) = finish signed v := fun hv =>
    have ⟨hsigned, hlo, hhi⟩ := finish_range hv
    halfOrder_toHalf hsigned (by omega) (by omega)
  rw [horder hv, horder hv']
  exact finish_mono signed h

/-- The half of an unsigned value (R305, R306). -/
theorem toNat_half_unsigned {v : Int} (h0 : 0 ≤ v) (h : v ≤ 0xFFFF) :
    (toHalf false (finish false v)).toNat = v.toNat * 31 / 64 := by
  obtain ⟨hnonneg, -, hhi⟩ := finish_range (signed := false) (v := v) ⟨h0, by omega⟩
  rw [toNat_toHalf_of_nonneg false (hnonneg rfl) (by omega), finish, if_neg Bool.false_ne_true]
  omega

/-- The half of a signed value from 0 up (R305, R306). -/
theorem toNat_half_nonneg {v : Int} (h0 : 0 ≤ v) (h : v ≤ 32767) :
    (toHalf true (finish true v)).toNat = v.toNat * 31 / 32 := by
  have hfinish : finish true v = v * 31 / 32 := by rw [finish, if_pos rfl, if_neg (by omega)]
  rw [hfinish, toNat_toHalf_of_nonneg true (by omega) (by omega)]
  omega

/-- The half of a value below 0: a magnitude of 0 has no sign (R305, R306). -/
theorem toNat_half_neg {v : Int} (h0 : v < 0) (h : -32768 ≤ v) :
    (toHalf true (finish true v)).toNat =
      if (-v).toNat * 31 / 32 = 0 then 0 else 0x8000 + (-v).toNat * 31 / 32 := by
  have hfinish : finish true v = -(-v * 31 / 32) := by rw [finish, if_pos rfl, if_pos h0]
  rw [hfinish]
  split
  next hzero =>
    rw [toNat_toHalf_of_nonneg true (by omega) (by omega)]
    omega
  next hne =>
    rw [toNat_toHalf_of_neg (by omega) (by omega)]
    omega

/-- Settles O15: the half by the sign of the value, and its order by that of the finished integers. -/
theorem finishToHalf : Obligations.FinishToHalf := by
  refine ⟨fun v v' h0 h hhi => ?_, fun v v' hlo h hhi => ⟨fun h0 => ?_, fun h0 => ?_, ?_, ?_⟩⟩
  · rw [toNat_half_unsigned h0 (by omega)]
    exact ⟨rfl, by omega, halfOrder_finish_mono h ⟨h0, by omega⟩ ⟨by omega, by omega⟩⟩
  · exact toNat_half_nonneg h0 (by omega)
  · exact toNat_half_neg h0 hlo
  · rw [← BitVec.toNat_inj, show (0xFC00#16).toNat = 0xFC00 from rfl]
    by_cases h0 : 0 ≤ v
    · rw [toNat_half_nonneg h0 (by omega)]
      omega
    · rw [toNat_half_neg (by omega) hlo]
      split <;> omega
  · exact halfOrder_finish_mono h ⟨hlo, by omega⟩ ⟨by omega, by omega⟩

end Sys2Proof.Machine.Color

/-! PROOFS. The BC6H decoder (R200 to R230): each mode's instruction completes with the registers of its rule, and every block
decodes with status OK, to the same halves in every layout. -/

namespace Sys2Proof.Machine

/-! ### The inverse transform (R204) -/

/-- A rebased channel is one of the base width. -/
theorem Bc6h.rebaseChannel_inWidth (signed : Bool) {p : Nat} (hp : 1 ≤ p) (base e : Int) :
    Color.InWidth signed p (rebaseChannel signed p base e) := by
  cases signed with
  | true => exact Color.sext_inWidth hp _
  | false =>
    simp only [rebaseChannel, Bool.false_eq_true, if_false, Color.inWidth_unsigned, Nat.cast_pow, Nat.cast_ofNat]
    exact ⟨Int.emod_nonneg _ (by positivity), Int.emod_lt_of_pos _ (by positivity)⟩

/-- It is congruent to the sum of delta and base. -/
theorem Bc6h.dvd_rebaseChannel_sub (signed : Bool) (p : Nat) (base e : Int) :
    (2 ^ p : Int) ∣ rebaseChannel signed p base e - (e + base) := by
  have hmod : (2 ^ p : Int) ∣ (e + base) % 2 ^ p - (e + base) := Int.dvd_emod_sub_self
  simp only [rebaseChannel, Nat.cast_pow, Nat.cast_ofNat]
  split
  · exact (dvd_add (Color.dvd_sext_sub p _) hmod).trans (dvd_of_eq (sub_add_sub_cancel _ _ _))
  · exact hmod

/-- Settles O18: reduction modulo 2^p and sign extension keep the congruence and give a value of the width. -/
theorem inverseTransform : Obligations.InverseTransform := by
  intro signed p base e hp
  have hwidth := Bc6h.rebaseChannel_inWidth signed hp base e
  refine ⟨Bc6h.dvd_rebaseChannel_sub signed p base e, ?_, ?_⟩ <;> (rintro rfl; exact hwidth)

/-! ### The endpoints and texels of a mode (R202 to R211) -/

section

variable {code : Nat} {i : Bc6hInfo}

/-- An endpoint relative to a base, channel by channel (R203 to R205). -/
theorem Bc6h.relative_eq_quadOf (i : Bc6hInfo) (signed : Bool) (region : Nat) (p : Rgb) (base : (Rgb → Nat) → Int) (v : Rgb) :
    Bc6h.relative i signed region p (Spec.quadOf base) v = Spec.quadOf fun ch =>
      Spec.bc6hOther i.tr signed ((signed || i.tr) && decide (region ≤ i.pc)) (ch i.a0) (ch p) (base ch) (ch v) := by
  have hextend :
      (if region ≤ i.pc ∧ (signed = true ∨ i.tr = true) then Bc6h.signExtend p (Bc6h.stored v) else Bc6h.stored v) =
        Spec.quadOf fun ch => if ((signed || i.tr) && decide (region ≤ i.pc)) = true then Color.sext (ch p) (ch v) else (ch v : Int) := by
    simp only [Bool.and_eq_true, Bool.or_eq_true, decide_eq_true_eq, and_comm]
    split <;> rfl
  have hrebase : ∀ e : (Rgb → Nat) → Int, Bc6h.rebase signed i.a0 (Spec.quadOf base) (Spec.quadOf e) =
      Spec.quadOf fun ch => Bc6h.rebaseChannel signed (ch i.a0) (base ch) (e ch) := fun _ => rfl
  simp only [Bc6h.relative, hextend, hrebase, Spec.bc6hOther]
  split
  · simp only [Bc6h.rebaseChannel, Nat.cast_pow, Nat.cast_ofNat]
  · rfl

/-- The endpoints of a valid mode are those of R202 to R205. -/
theorem Bc6h.endpoints_eq (hi : Rom.bc6hInfo code = some i) (signed : Bool) (f : Bc6hFields) :
    Bc6h.endpoints i signed f = Spec.bc6hEnds i signed f := by
  have hpc : decide (1 ≤ i.pc) = decide (i.pc = 1) := by
    unfold Rom.bc6hInfo at hi
    split at hi <;> cases hi <;> rfl
  have hbase : Bc6h.base i signed f.w = Spec.quadOf fun ch => Spec.bc6hBase signed (ch i.a0) (ch f.w) := by
    cases signed <;> rfl
  simp only [Bc6h.endpoints, Spec.bc6hEnds, hbase, Bc6h.relative_eq_quadOf, hpc, Nat.zero_le, decide_true, Bool.and_true]

/-- The register of indices is the list of 16 indices (R207). -/
theorem map_getD_range {l : List Nat} {n : Nat} (h : l.length = n) : ((List.range n).map fun k => l.getD k 0) = l := by
  refine List.ext_getElem (by simp [h]) fun k _ hk => ?_
  simp [hk]

/-- The texels written from a register of indices, pixel by pixel. -/
theorem mapIdx_map_range {α : Type} (n : Nat) (g : Nat → Nat) (px : Nat → Nat → α) :
    ((List.range n).map g).mapIdx px = (List.range n).map fun k => px k (g k) :=
  List.ext_getElem (by simp) fun k _ _ => by simp

/-- The shape that fits a mode's header has 5 bits at most. -/
theorem shape_lt_of_fits {f : Bc6hFields} (hf : f.Fits code i) : f.d < 32 := by
  have hwidth : headerWidth code i .d ≤ 5 := by simp only [headerWidth]; split <;> decide
  exact (hf.header .d nofun).trans_le (Nat.pow_le_pow_right (by decide) hwidth)

/-- DECODE_BC6H of well-formed fields leaves the registers of R200. -/
theorem bc6h_run_eq_bc6hRegs (hi : Rom.bc6hInfo code = some i) {f : Bc6hFields} (hf : f.wf code = true) (signed : Bool)
    (layout : Layout) (r : WorkRegs) :
    Bc6h.run code signed layout f r = Spec.bc6hRegs code i signed layout f r := by
  have hfits := (bc6hFields_wf_iff hi f).mp hf
  have hlen : f.idx.length = 16 := by simpa using fieldsFit_length _ _ hfits.idx
  rw [bc6h_run_eq hi signed layout (shape_lt_of_fits hfits) (lt_of_fieldsFit hfits.idx (indexWidths_le _ _ _)),
    mapIdx_map_range, map_getD_range hlen, Bc6h.endpoints_eq hi]
  rfl

/-- A mode's instruction completes with the registers of R200 under the record of its code. -/
theorem bc6hCompletes {mk : Bool → Layout → Bc6hFields → Instr} (hi : Rom.bc6hInfo code = some i)
    (hform : ∀ signed layout f, blockForm (mk signed layout f) = some (.bc6h code signed layout f))
    (hwf : ∀ signed layout f, (mk signed layout f).wf = f.wf code) : Spec.Bc6hCompletes mk code i := by
  intro signed layout f s a rest hf hs
  rw [hwf] at hf
  rw [exec_of_blockForm (hform signed layout f), State.decodeInto_cons s a rest _ hs]
  simp only [BlockForm.run, bc6h_run_eq_bc6hRegs hi hf]

/-- A reserved code's instruction reads the mode bits alone and fills the output with opaque black (R212). -/
theorem bc6hReservedCompletes {mk : Bool → Layout → BitVec 123 → Instr} (hi : Rom.bc6hInfo code = none)
    (hprefix : bc6hPrefixBits code = 5)
    (hform : ∀ signed layout ignored, blockForm (mk signed layout ignored) = some (.bc6h code signed layout .zero)) :
    Spec.Bc6hReservedCompletes mk code := by
  intro signed layout ignored s a rest hs
  rw [exec_of_blockForm (hform signed layout ignored), State.decodeInto_cons s a rest _ hs]
  simp only [BlockForm.run, Bc6h.run, hi, hprefix]
  rfl

end

/-- Settles O19: each mode has the record its rule lists, and its fields are those of its code. -/
theorem bc6hTwoRegionModes : Obligations.Bc6hTwoRegionModes := by
  refine ⟨?_, ?_, ?_, ?_, ?_, ?_, ?_, ?_, ?_, ?_⟩ <;> exact bc6hCompletes rfl (fun _ _ _ => rfl) (fun _ _ _ => rfl)

/-- Settles O20: the same, for the one-region records. -/
theorem bc6hOneRegionModes : Obligations.Bc6hOneRegionModes := by
  refine ⟨?_, ?_, ?_, ?_⟩ <;> exact bc6hCompletes rfl (fun _ _ _ => rfl) (fun _ _ _ => rfl)

/-- Settles O21: none of the four codes has a record, and each has five mode bits. -/
theorem bc6hReservedCodes : Obligations.Bc6hReservedCodes := by
  refine ⟨?_, ?_, ?_, ?_⟩ <;> exact bc6hReservedCompletes rfl rfl (fun _ _ _ => rfl)

/-! ### Every block (R215, R275, R230) -/

/-- What a block writes does not depend on the registers before it. -/
theorem BlockForm.run_out_eq (b : BlockForm) (r r' : WorkRegs) : (b.run r).out = (b.run r').out := by
  cases b with
  | bc6h code signed layout f =>
    simp only [BlockForm.run, Bc6h.run]
    split
    · rfl
    · split <;> rfl
  | bc7 mode f =>
    simp only [BlockForm.run, Bc7.run, Bc7.runReserved]
    split
    · rfl
    · split <;> rfl

/-- A block writes 16 texels (R200, R260). -/
theorem BlockForm.length_run_out (b : BlockForm) (r : WorkRegs) : (b.run r).out.length = 16 := by
  rw [b.run_out_eq r WorkRegs.start]
  cases b with
  | bc6h code signed layout f => exact (bc6h_run_shaped code signed layout f WorkRegs.start_shaped).2
  | bc7 mode f => exact (bc7_run_shaped mode f WorkRegs.start_shaped).2

/-- Settles O24: the fields read from a block pass every guard, so the status is OK. -/
theorem decodersReturnOk : Obligations.DecodersReturnOk := by
  intro s a rest hs
  have hexec : ∀ {i b}, blockForm i = some b → (b.run a.regs).status = .ok →
      ∃ r, exec i s = .next { s with active := { a with regs := r, phase := .returning } :: rest } ∧ r.status = .ok ∧
        r.out.length = 16 := fun {i b} hb hok =>
    ⟨b.run a.regs, by rw [exec_of_blockForm hb, State.decodeInto_cons s a rest _ hs], hok, b.length_run_out _⟩
  refine ⟨fun signed layout blk i hdec => ?_, fun blk => ?_⟩
  · obtain ⟨hok, -⟩ := bc6h_run_fieldsOf blk signed layout a.regs
    exact hexec (blockForm_of_decodeBc6hBlock hdec) hok
  · obtain ⟨mode, f, -, hf, hb⟩ := blockForm_decodeBc7Block blk
    exact hexec hb (bc7_run_ok mode hf.shape a.regs).1

/-- The halves of a pixel, whatever the layout (R208 to R210). -/
def Bc6h.pixelHalves (i : Bc6hInfo) (signed : Bool) (ends : List Quad) (shape k idx : Nat) : Half × Half × Half :=
  let a := ends.getD (2 * Rom.part i.pc shape k) default
  let b := ends.getD (2 * Rom.part i.pc shape k + 1) default
  (Bc6h.channel signed i.a0.r i.ib idx a.r b.r, Bc6h.channel signed i.a0.g i.ib idx a.g b.g,
    Bc6h.channel signed i.a0.b i.ib idx a.b b.b)

/-- The halves that a block decodes to (R200, R212). -/
def bc6hHalves (signed : Bool) (blk : Block) : List (Half × Half × Half) :=
  let f := bc6hFieldsOf blk
  match Rom.bc6hInfo (bc6hModeRead blk).1 with
  | none => List.replicate 16 (0, 0, 0)
  | some i => (List.range 16).map fun k =>
      Bc6h.pixelHalves i signed (Bc6h.endpoints i signed f) f.d k (f.idx.getD k 0)

@[simp] theorem length_bc6hHalves (signed : Bool) (blk : Block) : (bc6hHalves signed blk).length = 16 := by
  unfold bc6hHalves
  dsimp only
  split <;> simp

/-- Every layout carries the block's halves (R211). -/
theorem bc6h_run_out_eq_halves (signed : Bool) (layout : Layout) (blk : Block) (r : WorkRegs) :
    (Bc6h.run (bc6hModeRead blk).1 signed layout (bc6hFieldsOf blk) r).out =
      (bc6hHalves signed blk).map fun h => layoutTexel layout h.1 h.2.1 h.2.2 := by
  unfold bc6hHalves
  cases hi : Rom.bc6hInfo (bc6hModeRead blk).1 with
  | none => simp only [Bc6h.run, hi, List.map_replicate]; rfl
  | some i =>
    rw [bc6h_run_eq hi signed layout (bc6hFieldsOf_shape_lt blk) (bc6hFieldsOf_idx_lt hi), mapIdx_map_range, List.map_map]
    rfl

/-- Settles O26: the block's halves, laid out. -/
theorem layoutIndependence : Obligations.LayoutIndependence := by
  intro signed blk
  refine ⟨bc6hHalves signed blk, length_bc6hHalves signed blk, fun layout i s t a rest hdec hs h => ?_⟩
  rw [exec_of_blockForm (blockForm_of_decodeBc6hBlock hdec), State.decodeInto_cons s a rest _ hs] at h
  cases h
  refine congrArg some ((bc6h_run_out_eq_halves signed layout blk a.regs).trans ?_)
  cases layout <;> rfl

/-- Settles O25: the curve, the interpolation in its weight and the half each keep the order. -/
theorem bc6hMonotone : Obligations.Bc6hMonotone := by
  intro signed p a b k k' hp hab hu hs hk hk'
  have hp : p ≤ 16 := by omega
  obtain ⟨ha, hb⟩ : Color.InWidth signed p a ∧ Color.InWidth signed p b := by
    cases signed with
    | false =>
      obtain ⟨h0, h1⟩ := hu rfl
      exact ⟨⟨h0, hab.trans_lt h1⟩, h0.trans hab, h1⟩
    | true =>
      obtain ⟨h0, h1⟩ := hs rfl
      exact ⟨⟨h0, hab.trans_lt h1⟩, h0.trans hab, h1⟩
  have hle := Color.unquantize_mono hp hab hb
  have hvalue : ∀ {k}, k < 16 →
      Color.InWidth signed 16 (Color.interp (Color.unquantize signed p a) (Color.unquantize signed p b) (Rom.weight 4 k)) :=
    fun hk => Color.interp_inWidth hle (Color.unquantize_inWidth hp ha) (Color.unquantize_inWidth hp hb) (Rom.weight_four_le hk)
  exact Color.halfOrder_finish_mono (Color.interp_mono hle (Rom.weight_four_mono hk hk')) (hvalue (hk.trans_lt hk'))
    (hvalue hk')

end Sys2Proof.Machine

/-! PROOFS. The step with no event due: the running activation moves, else the oldest request is taken, else nothing does (R420;
log 1, log 15, log 21). -/

namespace Sys2Proof.Machine

/-- The running activation's step, with no event due. -/
theorem step_active {s : State} {a : Activation} {rest : List Activation} (hagenda : s.agenda = [])
    (hactive : s.active = a :: rest) : step s = runActive s := by
  rw [step_nil s hagenda, ← stepActive_eq_runActive hactive]
  simp only [stepUnit, hactive]

theorem step_idle {s : State} (hagenda : s.agenda = []) (hactive : s.active = []) (hqueue : s.queue = []) :
    step s = .next s := by
  rw [step_nil s hagenda]
  simp only [stepUnit, hactive, hqueue]

/-- Settles O37: the step is the running activation's next one, or takes the oldest request. -/
theorem stepRunsDecoded : Obligations.StepRunsDecoded := by
  intro s hagenda
  refine ⟨fun a rest sp i hs => step_decoding hagenda hs, fun a rest format hs hphase hfmt => ?_,
    fun a rest hs hphase => ?_, fun r rest i hs => step_request hagenda hs, step_idle hagenda⟩
  · rw [step_active hagenda hs]
    exact runActive_of_decodes hs hphase (.other hfmt)
  · rw [step_active hagenda hs]
    exact runActive_of_returning hs hphase

end Sys2Proof.Machine

/-! PROOFS. The BC7 decoder (R260 to R284): each mode's instruction completes with the registers of its rule, the reserved mode
with its fill, and the modes without alpha write opaque texels. -/

namespace Sys2Proof.Machine

/-! ### The endpoints (R264 to R267) -/

/-- The expansion by its formula (R308): the mask is the remainder of a byte, the shifts are by powers of two. -/
theorem Color.unq8_eq (c p : Nat) :
    unq8 c p = (c * 2 ^ (8 - p) % 256) ||| (c * 2 ^ (8 - p) % 256 / 2 ^ p) := by
  have hmask : ∀ n, n &&& 0xFF = n % 256 := fun n => Nat.and_two_pow_sub_one_eq_mod n 8
  simp only [unq8, hmask, Nat.shiftLeft_eq, Nat.shiftRight_eq_div_pow]

/-- A channel of an endpoint: the P-bit stands below the stored bits, and a channel that is not stored has no precision after
the P-bit either. -/
theorem Bc7.endpointChannel_eq {p pP q : Nat} (habsent : p = 0 → pP = 0) (hq : q < 2) (c : Nat) :
    Bc7.endpointChannel p pP q c = Spec.bc7Channel p pP q c := by
  unfold Bc7.endpointChannel Spec.bc7Channel
  by_cases hpP : pP = 0
  · rw [if_pos hpP, if_pos hpP]
  · have hp : p ≠ 0 := fun h => hpP (habsent h)
    have happend : c <<< 1 ||| q = 2 * c + q := by
      rw [← Nat.shiftLeft_add_eq_or_of_lt (by omega), Nat.shiftLeft_eq]
      omega
    simp only [if_neg hpP, if_neg hp, happend, Color.unq8_eq]

section

variable {mode : Nat} {i : Bc7Info}

/-- A channel that a mode does not store is absent from its endpoints (R37, R264). -/
theorem bc7Info_absent (hi : Rom.bc7Info mode = some i) :
    (i.prec.r = 0 → i.precP.r = 0) ∧ (i.prec.g = 0 → i.precP.g = 0) ∧ (i.prec.b = 0 → i.precP.b = 0) ∧
      (i.prec.a = 0 → i.precP.a = 0) := by
  unfold Rom.bc7Info at hi
  split at hi <;> cases hi <;> decide

/-- The endpoints of a valid mode are those of R264 to R267. -/
theorem Bc7.endpoints_eq (hi : Rom.bc7Info mode = some i) {f : Bc7Fields} (hpbits : ∀ q ∈ f.pbits, q < 2) :
    (List.range (2 * (i.pc + 1))).map (Bc7.endpoint i f) = Spec.bc7Ends i f := by
  obtain ⟨hr, hg, hb, ha⟩ := bc7Info_absent hi
  refine List.map_congr_left fun e _ => ?_
  have hq : f.pbits.getD (e * i.np / (2 * (i.pc + 1))) 0 < 2 :=
    map_getD_lt (by decide) hpbits _ _ (List.mem_map_of_mem (List.mem_range.mpr (Nat.lt_succ_self _)))
  simp only [Bc7.endpoint, Bc7.endpointChannel_eq hr hq, Bc7.endpointChannel_eq hg hq, Bc7.endpointChannel_eq hb hq,
    Bc7.endpointChannel_eq ha hq]
  rfl

/-! ### The texels (R270 to R273) -/

/-- The texel of rotated channels: the rotation exchanges alpha with the channel it names (R272). -/
theorem Bc7.texel_rotate (rot : Nat) (q : Quad) :
    Bc7.texel (Bc7.rotate rot q) =
      if rot = 1 then Bc7.texel ⟨q.a, q.g, q.b, q.r⟩
      else if rot = 2 then Bc7.texel ⟨q.r, q.a, q.b, q.g⟩
      else if rot = 3 then Bc7.texel ⟨q.r, q.g, q.a, q.b⟩
      else Bc7.texel q := by
  unfold Bc7.rotate
  split
  · rfl
  · rfl
  · rfl
  next h1 h2 h3 => rw [if_neg h1, if_neg h2, if_neg h3]

/-- The weights of the index that `Select` gives to the color, and of that which it gives to alpha (R270). -/
theorem Bc7.weight_select (i : Bc7Info) (imode w1 w2 : Nat) :
    let sel := Bc7.select i imode w1 w2
    Rom.weight sel.1.2 sel.1.1 =
        (if i.ip2 = 0 ∨ imode = 0 then Rom.weight i.ip w1 else Rom.weight i.ip2 w2) ∧
      Rom.weight sel.2.2 sel.2.1 =
        (if i.ip2 = 0 then Rom.weight i.ip w1 else if imode = 0 then Rom.weight i.ip2 w2 else Rom.weight i.ip w1) := by
  unfold Bc7.select
  by_cases hone : i.ip2 = 0
  · simp [hone]
  · by_cases himode : imode = 0 <;> simp [hone, himode]

/-- The texel of a pixel under the endpoints of R264 to R267 is that of R270 to R273. -/
theorem Bc7.pixel_eq (i : Bc7Info) (f : Bc7Fields) (k : Nat) :
    Bc7.pixel i (Spec.bc7Ends i f) f.shape f.rot f.imode k (f.w1.getD k 0) (f.w2.getD k 0) = Spec.bc7Texel i f k := by
  obtain ⟨hcolor, halpha⟩ := Bc7.weight_select i f.imode (f.w1.getD k 0) (f.w2.getD k 0)
  simp only [Bc7.pixel, Bc7.texel_rotate, hcolor, halpha]
  rfl

/-! ### The registers of a mode (R260) -/

/-- A register of n values is the list copied to it, and zeros for the missing ones. -/
theorem map_getD_range_eq_append {l : List Nat} {n : Nat} (h : l.length ≤ n) :
    ((List.range n).map fun k => l.getD k 0) = l ++ List.replicate (n - l.length) 0 := by
  refine List.ext_getElem (by simp; omega) fun k hk _ => ?_
  by_cases hlt : k < l.length
  · simp [hlt]
  · simp [hlt, List.getElem_append_right (Nat.not_lt.mp hlt)]

/-- A register's value, read back. -/
theorem getD_map_range {n k : Nat} (hk : k < n) (g : Nat → Nat) : ((List.range n).map g).getD k 0 = g k := by
  simp [hk]

/-- A valid mode has at most 6 P-bits (R37). -/
theorem bc7Info_np_le (hi : Rom.bc7Info mode = some i) : i.np ≤ 6 := by
  unfold Rom.bc7Info at hi
  split at hi <;> cases hi <;> decide

/-- The register of secondary indices: the stream's 16, or zeros in a mode without the stream (R152, R269). -/
theorem Bc7.w2Register_eq {f : Bc7Fields} (hf : f.Fits i) :
    ((List.range 16).map fun k => f.w2.getD k 0) = if i.ip2 = 0 then List.replicate 16 0 else f.w2 := by
  have hlen := fieldsFit_length _ _ hf.w2
  unfold Rom.secondaryWidths at hlen
  split at hlen
  next hnone =>
    rw [if_pos hnone, List.eq_nil_of_length_eq_zero hlen]
    rfl
  next htwo => rw [if_neg htwo, map_getD_range (by simpa using hlen)]

/-- The output: the texels read their indices from the registers, which hold the fields. -/
theorem Bc7.out_eq (i : Bc7Info) (f : Bc7Fields) :
    ((List.range 16).map fun k => Bc7.pixel i (Spec.bc7Ends i f) f.shape f.rot f.imode k
      (((List.range 16).map fun j => f.w1.getD j 0).getD k 0) (((List.range 16).map fun j => f.w2.getD j 0).getD k 0)) =
      (List.range 16).map (Spec.bc7Texel i f) := by
  refine List.map_congr_left fun k hk => ?_
  have hk := List.mem_range.mp hk
  rw [getD_map_range hk, getD_map_range hk, Bc7.pixel_eq]

/-- DECODE_BC7 of fields within their widths leaves the registers of R260. -/
theorem bc7_run_eq_bc7Regs (hi : Rom.bc7Info mode = some i) {f : Bc7Fields} (hf : f.Fits i) (r : WorkRegs) :
    Bc7.run mode f r = Spec.bc7Regs mode i f r := by
  obtain ⟨-, -, hpb, -⟩ := bc7Info_bounds hi
  have hsum := bc7_fields_fit hi (hf.shape.trans_le (Nat.pow_le_pow_right (by decide) hpb))
  have hguard := guardReads_of_sum_le (Bc7.fieldWidths i f.shape) (mode + 1) hsum.le
  obtain ⟨hnp, hpbits⟩ := fieldsFit_replicate.mp hf.pbits
  have hpregs : ((List.range 6).map fun j => f.pbits.getD j 0) = f.pbits ++ List.replicate (6 - i.np) 0 := by
    rw [map_getD_range_eq_append (by rw [hnp]; exact bc7Info_np_le hi), hnp]
  have hw1 : ((List.range 16).map fun k => f.w1.getD k 0) = f.w1 :=
    map_getD_range (by simpa using fieldsFit_length _ _ hf.w1)
  simp only [Bc7.run, hi, hguard, hsum, if_true, Bc7.endpoints_eq hi hpbits]
  rw [Bc7.out_eq, hpregs, hw1, Bc7.w2Register_eq hf]
  rfl

/-- A mode's instruction completes with the registers of R260 under the record of its mode. -/
theorem bc7Completes {mk : Bc7Fields → Instr} (hi : Rom.bc7Info mode = some i)
    (hform : ∀ f, blockForm (mk f) = some (.bc7 mode f)) (hwf : ∀ f, (mk f).wf = f.wf mode) :
    Spec.Bc7Completes mk mode i := by
  intro f s a rest hf hs
  rw [hwf] at hf
  rw [exec_of_blockForm (hform f), State.decodeInto_cons s a rest _ hs]
  simp only [BlockForm.run, bc7_run_eq_bc7Regs hi ((bc7Fields_wf_iff hi f).mp hf)]

/-! ### The modes without alpha (R264, R284) -/

/-- Between equal endpoints every weight gives the endpoint (R301). -/
theorem Color.interp_self (a : Int) (w : Nat) : interp a a w = a := by
  have hsum : a * (64 - (w : Int)) + a * w = a * 64 := by ring
  unfold interp
  omega

/-- An endpoint of a mode without alpha has alpha 255 (R264). -/
theorem alpha_bc7Ends (halpha : i.precP.a = 0) (f : Bc7Fields) {e : Nat} (he : e < 2 * (i.pc + 1)) :
    ((Spec.bc7Ends i f).getD e ⟨0, 0, 0, 0⟩).a = 255 := by
  simp [Spec.bc7Ends, Spec.bc7Channel, halpha, he]

/-- A texel of a mode without alpha and without rotation has alpha 255: the region of its pixel is one of the mode's, so both of
its endpoints are opaque. -/
theorem bc7Texel_opaque (hi : Rom.bc7Info mode = some i) (halpha : i.precP.a = 0) (hrb : i.rb = 0) {f : Bc7Fields}
    (hf : f.Fits i) {k : Nat} (hk : k < 16) : ∃ r g b, Spec.bc7Texel i f k = .rgba8 r g b 255 := by
  obtain ⟨-, hpc, hpb, -⟩ := bc7Info_bounds hi
  obtain ⟨-, -, -, hpart, -⟩ := Rom.partitionTables
  have hregion : Rom.part i.pc f.shape k < i.pc + 1 :=
    hpart i.pc (by omega) f.shape (hf.shape.trans_le (Nat.pow_le_pow_right (by decide) hpb)) k hk
  have hrot : f.rot = 0 := by simpa [hrb] using hf.rot
  simp only [Spec.bc7Texel, hrot, alpha_bc7Ends halpha f (show 2 * Rom.part i.pc f.shape k < _ by omega),
    alpha_bc7Ends halpha f (show 2 * Rom.part i.pc f.shape k + 1 < _ by omega), Color.interp_self]
  exact ⟨_, _, _, rfl⟩

/-- What a completing instruction of such a mode leaves: 16 texels, each of alpha 255. -/
theorem bc7Completes_opaque {mk : Bc7Fields → Instr} (h : Spec.Bc7Completes mk mode i) (hi : Rom.bc7Info mode = some i)
    (hwf : ∀ f, (mk f).wf = f.wf mode) (halpha : i.precP.a = 0) (hrb : i.rb = 0) {f : Bc7Fields} {s t : State}
    {a : Activation} {rest : List Activation} (hf : (mk f).wf = true) (hs : s.active = a :: rest)
    (hexec : exec (mk f) s = .next t) :
    ∃ a', t.active = a' :: rest ∧ a'.regs.out.length = 16 ∧ ∀ x ∈ a'.regs.out, ∃ r g b, x = .rgba8 r g b 255 := by
  have hfits := (bc7Fields_wf_iff hi f).mp (hwf f ▸ hf)
  rw [h f s a rest hf hs] at hexec
  cases hexec
  refine ⟨_, rfl, by simp [Spec.bc7Regs], fun x hx => ?_⟩
  obtain ⟨k, hk, rfl⟩ := List.mem_map.mp hx
  exact bc7Texel_opaque hi halpha hrb hfits (List.mem_range.mp hk)

end

/-- Settles O22: each mode has the record its rule lists, and its fields are those of its mode. -/
theorem bc7Modes : Obligations.Bc7Modes := by
  refine ⟨?_, ?_, ?_, ?_, ?_, ?_, ?_, ?_⟩ <;> exact bc7Completes rfl (fun _ => rfl) (fun _ => rfl)

/-- Settles O27: modes 0 to 3 store no alpha and no rotation, so the endpoints' alpha is 255, and so is what lies between. -/
theorem bc7OpaqueModes : Obligations.Bc7OpaqueModes := by
  obtain ⟨h0, h1, h2, h3, -⟩ := bc7Modes
  rintro f i s t a rest (rfl | rfl | rfl | rfl) hf hs hexec
  · exact bc7Completes_opaque h0 rfl (fun _ => rfl) rfl rfl hf hs hexec
  · exact bc7Completes_opaque h1 rfl (fun _ => rfl) rfl rfl hf hs hexec
  · exact bc7Completes_opaque h2 rfl (fun _ => rfl) rfl rfl hf hs hexec
  · exact bc7Completes_opaque h3 rfl (fun _ => rfl) rfl rfl hf hs hexec

/-- Settles O23: the reserved mode has no record, so its instruction reads the mode bits alone and fills the output. -/
theorem bc7ReservedMode : Obligations.Bc7ReservedMode := by
  intro ignored s a rest hs
  rw [exec_of_blockForm (i := .bc7Reserved ignored) rfl, State.decodeInto_cons s a rest _ hs]
  rfl

end Sys2Proof.Machine

/-! PROOFS. The rest of the color helpers (R301 to R308): the interpolation and the curves by their rules, the exact widening
of a half, and the corners of the bit-replication expansion. -/

namespace Sys2Proof.Machine.Color

open Sys2Proof.Spec (f32Value f32Magnitude halfValue)
open Fl32 (ofBits_eq_f32Value f32Magnitude_fields)

/-! ### The interpolation (R301) -/

/-- The interpolation is the floor of its sum over 64 (R301). -/
theorem interp_floor (a b : Int) (w : Nat) :
    64 * interp a b w ≤ a * (64 - w) + b * w + 32 ∧ a * (64 - w) + b * w + 32 < 64 * interp a b w + 64 :=
  ⟨Int.mul_ediv_self_le (by decide), Int.lt_mul_ediv_self_add (by decide)⟩

/-- Settles O11: it rises with the weight, from one end at weight 0 to the other at weight 64. -/
theorem interpLaws : Obligations.InterpLaws := by
  refine fun a b w hw => ⟨interp_zero a b, interp_sixtyFour a b, interp_floor a b w, fun hab => ⟨?_, ?_⟩,
    fun w' hab hww' _ => interp_mono hab hww'⟩
  · simpa using interp_mono hab (Nat.zero_le w)
  · simpa using interp_mono hab hw

/-! ### Sign extension (R302) -/

/-- A value that is already n-bit two's complement stays: two such values that are congruent modulo 2^n are equal (R302). -/
theorem sext_of_inWidth {n : Nat} (hn : 1 ≤ n) {v : Int} (hv : InWidth true n v) : sext n v = v := by
  have hwidth := sext_inWidth hn v
  have hpow : (2 : Int) ^ n = 2 * 2 ^ (n - 1) := (mul_pow_sub_one (by omega) 2).symm
  rw [inWidth_signed] at hv hwidth
  exact sub_eq_zero.mp (Int.eq_zero_of_abs_lt_dvd (dvd_sext_sub n v) (by rw [abs_lt]; omega))

/-- Settles O12: the extension is of the width and congruent, which leaves a value with its sign bit clear as it is. -/
theorem signExtension : Obligations.SignExtension := fun n v hn =>
  ⟨sext_inWidth hn v, dvd_sext_sub n v,
    fun h0 h => sext_of_inWidth hn ⟨(neg_nonpos.mpr (by positivity)).trans h0, h⟩⟩

/-! ### The unsigned curve (R303) -/

theorem unquantize_unsigned (p c : Nat) : unquantize false p c = (unquantizeU p c : Int) := rfl

/-- The unsigned curve by its rule's cases, the shifts as products and quotients. -/
theorem unquantizeU_eq (p c : Nat) :
    unquantizeU p c = if 15 ≤ p then c else if c = 0 then 0 else if c = 2 ^ p - 1 then 0xFFFF
      else (c * 2 ^ 16 + 0x8000) / 2 ^ p := by
  simp only [unquantizeU, Nat.shiftLeft_eq, Nat.shiftRight_eq_div_pow]

/-- Settles O13: the cases of the definition, with the curve's bound and monotonicity on the natural numbers. -/
theorem unquantizeUnsigned : Obligations.UnquantizeUnsigned := by
  intro p c c' _ hp h hc'
  have hlt : c' < 2 ^ p := Nat.lt_of_le_sub_one (Nat.two_pow_pos p) hc'
  simp only [unquantize_unsigned]
  refine ⟨?_, Int.natCast_nonneg _, Int.ofNat_le.mpr (unquantizeU_le hp (h.trans_lt hlt)),
    Int.ofNat_le.mpr (unquantizeU_mono hp h hlt)⟩
  rw [unquantizeU_eq]
  split_ifs <;> rfl

/-! ### The signed curve (R304) -/

theorem unquantize_signed (p : Nat) (c : Int) : unquantize true p c = unquantizeS p c := rfl

/-- The signed curve is odd, on every integer (R304). -/
theorem unquantizeS_neg (p : Nat) (c : Int) : unquantizeS p (-c) = -unquantizeS p c := by
  have hzero : unquantizeMag p 0 = 0 := rfl
  simp only [unquantizeS, Int.natAbs_neg]
  split
  · rfl
  · rcases lt_trichotomy c 0 with hneg | rfl | hpos
    · rw [if_neg (by omega), if_pos hneg, neg_neg]
    · simp [hzero]
    · rw [if_pos (by omega), if_neg (by omega)]

theorem unquantizeS_of_sixteen_le {p : Nat} (hp : 16 ≤ p) (c : Int) : unquantizeS p c = c := if_pos hp

@[simp] theorem unquantizeS_zero (p : Nat) : unquantizeS p 0 = 0 := by
  have hodd := unquantizeS_neg p 0
  rw [neg_zero] at hodd
  omega

/-- The signed curve above 0: the top is reached, or the rounded quotient is taken (R304). -/
theorem unquantizeS_of_pos {p : Nat} (hp : p < 16) {c : Int} (hc : 0 < c) :
    unquantizeS p c = if 2 ^ (p - 1) - 1 ≤ c then 0x7FFF else (c * 2 ^ 15 + 0x4000) / 2 ^ (p - 1) := by
  lift c to Nat using hc.le
  have hpow : ((2 ^ (p - 1) : Nat) : Int) = 2 ^ (p - 1) := by push_cast; rfl
  have htop : (2 ^ (p - 1) - 1 : Int) ≤ c ↔ 2 ^ (p - 1) - 1 ≤ c := by omega
  rw [unquantizeS, if_neg (by omega), if_neg (by omega), Int.natAbs_natCast, unquantizeMag, if_neg (by omega)]
  simp only [htop, Nat.shiftLeft_eq, Nat.shiftRight_eq_div_pow]
  split
  · rfl
  · push_cast
    rfl

/-- Below precision 16 the signed curve stays within 0x7FFF on both sides (R304). -/
theorem abs_unquantizeS_le {p : Nat} (hp : p < 16) (c : Int) : |unquantizeS p c| ≤ 0x7FFF := by
  have hle := unquantizeMag_le p c.natAbs
  rw [unquantizeS, if_neg (by omega), abs_le]
  split <;> omega

/-- The signed curve by its rule's cases: below 0 it is what oddness makes of the cases above 0. -/
theorem unquantizeS_eq {p : Nat} (hp : 2 ≤ p) (c : Int) :
    unquantizeS p c =
      if 16 ≤ p then c else if c = 0 then 0 else if 2 ^ (p - 1) - 1 ≤ c then 0x7FFF
      else if c ≤ -(2 ^ (p - 1) - 1) then -0x7FFF
      else if 0 < c then (c * 2 ^ 15 + 0x4000) / 2 ^ (p - 1) else -((-c * 2 ^ 15 + 0x4000) / 2 ^ (p - 1)) := by
  have htop : (2 : Int) ≤ 2 ^ (p - 1) := le_self_pow₀ (by decide) (by omega)
  by_cases h16 : 16 ≤ p
  · rw [if_pos h16, unquantizeS_of_sixteen_le h16]
  rw [if_neg h16]
  have hlt : p < 16 := by omega
  rcases lt_trichotomy c 0 with hneg | rfl | hpos
  · have hodd := unquantizeS_neg p (-c)
    rw [neg_neg, unquantizeS_of_pos hlt (by omega : 0 < -c)] at hodd
    rw [hodd, if_neg hneg.ne, if_neg (show ¬ 2 ^ (p - 1) - 1 ≤ c by omega), if_neg hneg.not_gt]
    by_cases hend : c ≤ -(2 ^ (p - 1) - 1)
    · rw [if_pos hend, if_pos (by omega)]
    · rw [if_neg hend, if_neg (by omega)]
  · rw [if_pos rfl, unquantizeS_zero]
  · rw [unquantizeS_of_pos hlt hpos, if_neg hpos.ne', if_neg (show ¬ c ≤ -(2 ^ (p - 1) - 1) by omega), if_pos hpos]

/-- Settles O14: the cases by sign, with the curve's bound, oddness and monotonicity. -/
theorem unquantizeSigned : Obligations.UnquantizeSigned := fun p c _ hp _ _ h _ =>
  ⟨unquantizeS_eq hp c, fun hlt => abs_le.mp (abs_unquantizeS_le hlt c), fun _ => unquantizeS_neg p c,
    unquantizeS_mono p h⟩

/-! ### The widening of a half (R307) -/

theorem toNat_packF32 (s : Bool) (e f : Nat) :
    (packF32 s e f).toNat = s.toNat * 2 ^ 31 + (e % 2 ^ 8 * 2 ^ 23 + f % 2 ^ 23) := by
  have hexp : e % 2 ^ 8 < 2 ^ 8 := Nat.mod_lt _ (by decide)
  have hfrac : f % 2 ^ 23 < 2 ^ 23 := Nat.mod_lt _ (by decide)
  simp only [packF32, BitVec.toNat_append, BitVec.toNat_ofNat, BitVec.toNat_ofBool]
  rw [← Nat.shiftLeft_add_eq_or_of_lt hexp, ← Nat.shiftLeft_add_eq_or_of_lt hfrac]
  simp only [Nat.shiftLeft_eq]
  omega

theorem sign_packF32 (s : Bool) (e f : Nat) : (packF32 s e f).getLsbD 31 = s := by
  have hmsb : (packF32 s e f).getLsbD 31 = decide (2 ^ 31 ≤ (packF32 s e f).toNat) := BitVec.msb_eq_decide (packF32 s e f)
  rw [hmsb, toNat_packF32]
  cases s
  · exact decide_eq_false (by simp only [Bool.toNat_false]; omega)
  · exact decide_eq_true (by simp only [Bool.toNat_true]; omega)

/-- The pattern's bits below its sign. -/
theorem toNat_packF32_mod (s : Bool) {e : Nat} (he : e < 2 ^ 8) (f : Nat) :
    (packF32 s e f).toNat % 2 ^ 31 = e * 2 ^ 23 + f % 2 ^ 23 := by
  rw [toNat_packF32]
  omega

/-- The value of a pattern whose exponent is not that of the infinities and NaNs. -/
theorem f32Value_packF32_finite (s : Bool) {e : Nat} (he : e < 255) (f : Nat) :
    f32Value (packF32 s e f) =
      .finite (if s then -(f32Magnitude (e * 2 ^ 23 + f % 2 ^ 23) : Int) else f32Magnitude (e * 2 ^ 23 + f % 2 ^ 23)) := by
  rw [f32Value, sign_packF32, toNat_packF32_mod s (by omega)]
  exact if_neg (by omega)

/-- The value of a pattern with the exponent of the infinities and NaNs. -/
theorem f32Value_packF32_nonfinite (s : Bool) {f : Nat} (hf : f < 2 ^ 23) :
    f32Value (packF32 s 0xFF f) = if f = 0 then .inf s else .nan := by
  rw [f32Value, sign_packF32, toNat_packF32_mod s (by decide), Nat.mod_eq_of_lt hf]
  simp only [show (0xFF * 2 ^ 23 + f) / 2 ^ 23 = 255 by omega, show (0xFF * 2 ^ 23 + f) % 2 ^ 23 = f by omega, if_true]

/-- The fields that a half widens from. -/
theorem h2f_eq (h : Half) {e f : Nat} (he : e = h.toNat / 2 ^ 10 % 2 ^ 5) (hf : f = h.toNat % 2 ^ 10) :
    h2f h =
      if e = 31 then packF32 (h.getLsbD 15) 0xFF (f * 2 ^ 13)
      else if e = 0 ∧ f = 0 then packF32 (h.getLsbD 15) 0 0
      else if e = 0 then packF32 (h.getLsbD 15) (Nat.log2 f + 103) (f * 2 ^ (23 - Nat.log2 f))
      else packF32 (h.getLsbD 15) (e + 112) (f * 2 ^ 13) := by
  have hexp : (h.extractLsb' 10 5).toNat = e := by rw [he, BitVec.extractLsb'_toNat, Nat.shiftRight_eq_div_pow]
  have hfrac : (h.extractLsb' 0 10).toNat = f := by rw [hf, BitVec.extractLsb'_toNat, Nat.shiftRight_zero]
  simp only [h2f, hexp, hfrac, Nat.shiftLeft_eq]

/-- A subnormal half is normalized: its leading bit moves to the place of the hidden bit, and the exponent makes up for it. -/
theorem f32Magnitude_of_subnormal {f : Nat} (h0 : f ≠ 0) (hf : f < 2 ^ 10) :
    f32Magnitude ((Nat.log2 f + 103) * 2 ^ 23 + f * 2 ^ (23 - Nat.log2 f) % 2 ^ 23) = f * 2 ^ 125 := by
  have hlog : Nat.log2 f < 10 := (Nat.log2_lt h0).mpr hf
  have hlo : 2 ^ 23 ≤ f * 2 ^ (23 - Nat.log2 f) :=
    calc 2 ^ 23 = 2 ^ Nat.log2 f * 2 ^ (23 - Nat.log2 f) := by rw [← pow_add]; congr 1; omega
      _ ≤ _ := Nat.mul_le_mul_right _ (Nat.log2_self_le h0)
  have hhi : f * 2 ^ (23 - Nat.log2 f) < 2 ^ 24 :=
    calc _ < 2 ^ (Nat.log2 f + 1) * 2 ^ (23 - Nat.log2 f) := Nat.mul_lt_mul_of_pos_right Nat.lt_log2_self (Nat.two_pow_pos _)
      _ = 2 ^ 24 := by rw [← pow_add]; congr 1; omega
  have hhidden : 2 ^ 23 + f * 2 ^ (23 - Nat.log2 f) % 2 ^ 23 = f * 2 ^ (23 - Nat.log2 f) := by omega
  rw [f32Magnitude_fields _ (Nat.mod_lt _ (by decide)), if_neg (by omega), hhidden, Nat.mul_assoc, ← pow_add]
  congr 2
  omega

/-- A normal half keeps its fraction, at the top of the binary32's, and its exponent changes its bias. -/
theorem f32Magnitude_of_normal (e : Nat) {f : Nat} (hf : f < 2 ^ 10) :
    f32Magnitude ((e + 112) * 2 ^ 23 + f * 2 ^ 13 % 2 ^ 23) = (2 ^ 10 + f) * 2 ^ (e + 124) := by
  have hexp : e + 124 = 13 + (e + 112 - 1) := by omega
  rw [f32Magnitude_fields _ (Nat.mod_lt _ (by decide)), if_neg (by omega), Nat.mod_eq_of_lt (by omega), hexp, pow_add]
  ring

/-- The widened half has the half's value (R307). -/
theorem f32Value_h2f (h : Half) : f32Value (h2f h) = halfValue h := by
  have hf : h.toNat % 2 ^ 10 < 2 ^ 10 := Nat.mod_lt _ (by decide)
  have he : h.toNat / 2 ^ 10 % 2 ^ 5 < 2 ^ 5 := Nat.mod_lt _ (by decide)
  rw [h2f_eq h rfl rfl, halfValue]
  generalize h.toNat % 2 ^ 10 = f at hf ⊢
  generalize h.toNat / 2 ^ 10 % 2 ^ 5 = e at he ⊢
  by_cases hinf : e = 31
  · simp only [if_pos hinf]
    rw [f32Value_packF32_nonfinite _ (by omega)]
    simp
  simp only [if_neg hinf]
  by_cases hsub : e = 0
  · by_cases hzero : f = 0
    · rw [if_pos ⟨hsub, hzero⟩, if_pos hsub, f32Value_packF32_finite _ (by decide)]
      simp [hzero, f32Magnitude]
    · have hlog : Nat.log2 f < 10 := (Nat.log2_lt hzero).mpr hf
      rw [if_neg (by omega), if_pos hsub, if_pos hsub, f32Value_packF32_finite _ (by omega), f32Magnitude_of_subnormal hzero hf]
  · rw [if_neg (by omega), if_neg hsub, if_neg hsub, f32Value_packF32_finite _ (by omega), f32Magnitude_of_normal e hf]

/-- In every case the sign bit is the half's (R307). -/
theorem sign_h2f (h : Half) : (h2f h).getLsbD 31 = h.getLsbD 15 := by
  rw [h2f_eq h rfl rfl]
  split_ifs <;> exact sign_packF32 _ _ _

/-- An infinity or a NaN keeps its fraction, shifted (R307). -/
theorem toNat_h2f_nonfinite {h : Half} (he : h.toNat / 2 ^ 10 % 2 ^ 5 = 31) :
    (h2f h).toNat % 2 ^ 31 = 0xFF * 2 ^ 23 + h.toNat % 2 ^ 10 * 2 ^ 13 := by
  rw [h2f_eq h he.symm rfl, if_pos rfl, toNat_packF32_mod _ (by decide)]
  omega

/-- Settles O16: the value by the half's exponent, infinite, subnormal or normal. -/
theorem halfWideningExact : Obligations.HalfWideningExact := fun h =>
  ⟨(ofBits_eq_f32Value _).trans (f32Value_h2f h), sign_h2f h, toNat_h2f_nonfinite⟩

/-! ### The bit-replication expansion (R308) -/

/-- At full precision nothing is vacated. -/
theorem unq8_eight {c : Nat} (hc : c < 256) : unq8 c 8 = c := by
  have hmod : c * 2 ^ (8 - 8) % 256 = c := by omega
  rw [unq8_eq, hmod, Nat.div_eq_of_lt (b := 2 ^ 8) hc, Nat.or_zero]

/-- Settles O17: the formula at every precision; its corners are finitely many values. -/
theorem unq8Expansion : Obligations.Unq8Expansion :=
  ⟨fun p _ _ c _ => unq8_eq c p, by decide, fun _ => unq8_eight, by decide⟩

end Sys2Proof.Machine.Color

/-! PROOFS. The sampler's coordinates: what wrapping takes off a component is exact, and the conversion is the formula of R346. -/

namespace Sys2Proof.Machine.Fl32

open Sys2Proof.Spec (f32Value f32Magnitude coordConverts)

theorem one_eq : one = 2 ^ 149 := by decide

/-! ### Wrapping (R345) -/

/-- A significand of at most 24 bits, however far it is shifted, is the value of a pattern: one with room to spare is doubled
until it has 24 bits or the shift is used up. -/
theorem exists_f32Magnitude_eq : ∀ (sh : Nat) {q : Nat}, q < 2 ^ 24 →
    ∃ b < (sh + 2) * 2 ^ 23, f32Magnitude b = q * 2 ^ sh
  | 0, q, hq => ⟨0 * 2 ^ 23 + q, by omega, f32Magnitude_shift_add hq.le (.inl rfl)⟩
  | sh + 1, q, hq => by
    by_cases hfull : 2 ^ 23 ≤ q
    · exact ⟨(sh + 1) * 2 ^ 23 + q, by omega, f32Magnitude_shift_add hq.le (.inr hfull)⟩
    · obtain ⟨b, hb, hvalue⟩ := exists_f32Magnitude_eq sh (q := 2 * q) (by omega)
      exact ⟨b, hb.trans (Nat.mul_lt_mul_of_pos_right (by omega) (by decide)), by rw [hvalue]; ring⟩

/-- The value of a pattern below infinity. -/
theorem ofBits_of_lt {b : Nat} (hb : b < 0x7F800000) : ofBits (BitVec.ofNat 32 b) = .finite (f32Magnitude b) := by
  have hsign : (BitVec.ofNat 32 b).getLsbD 31 = false := by
    rw [BitVec.getLsbD_ofNat, Nat.testBit_lt_two_pow (by omega), Bool.and_false]
  have hbits : (BitVec.ofNat 32 b).toNat % 2 ^ 31 = b := by rw [BitVec.toNat_ofNat]; omega
  rw [ofBits_eq_f32Value, f32Value, hsign, hbits]
  exact if_neg (by omega)

/-- A finite value above 1.0 is a whole number of units of 2^-23, the last place of 1.0. -/
theorem dvd_of_one_lt {x : F32} {n : Int} (h : ofBits x = .finite n) (hn : (one : Int) < n) : 2 ^ 126 ∣ n.toNat := by
  obtain ⟨b, -, hvalue⟩ := natAbs_of_f32Value_finite (ofBits_eq_f32Value x ▸ h)
  have hone : f32Magnitude 0x3F800000 = one := by decide
  have hb : 0x3F800000 < b := f32Magnitude_strictMono.lt_iff_lt.mp (by omega)
  rw [show n.toNat = f32Magnitude b by omega, f32Magnitude, if_neg (by omega)]
  exact Dvd.dvd.mul_left (pow_dvd_pow 2 (by omega)) _

/-- What wrapping takes off a component above 1.0. -/
theorem wrap_of_one_lt {n : Int} (hn : (one : Int) < n) : wrap (.finite n) = .finite (n - n / one * one) := if_pos hn

/-- A component not above 1.0 is kept. -/
theorem wrap_of_le_one {n : Int} (hn : n ≤ one) : wrap (.finite n) = .finite n := if_neg (not_lt.mpr hn)

/-- The fractional part of a component above 1.0 has at most 23 bits, so it is a binary32 (R345). -/
theorem exists_ofBits_eq_wrap {x : F32} {n : Int} (h : ofBits x = .finite n) (hn : (one : Int) < n) :
    ∃ y, ofBits y = wrap (.finite n) := by
  have hpos : 0 < one := by decide
  obtain ⟨q, hq⟩ : 2 ^ 126 ∣ n.toNat % one := (Nat.dvd_mod_iff (by decide)).mpr (dvd_of_one_lt h hn)
  have hlt : n.toNat % one < one := Nat.mod_lt _ hpos
  obtain ⟨b, hb, hvalue⟩ := exists_f32Magnitude_eq 126 (q := q) (by rw [hq, one_eq] at hlt; omega)
  have hfrac : (n.toNat % one : Nat) = n - n / one * one := by
    rw [Int.natCast_emod, Int.toNat_of_nonneg (by omega), Int.emod_def, Int.mul_comm]
  refine ⟨BitVec.ofNat 32 b, ?_⟩
  rw [ofBits_of_lt (by omega), wrap_of_one_lt hn, ← hfrac, hq, hvalue, Nat.mul_comm]

/-- Settles O55: above 1.0 the truncated quotient by 1.0 is taken off, which leaves the remainder; it has no more bits below
the point than the component. -/
theorem wrapRule : Obligations.WrapRule := by
  refine ⟨fun x n h => ⟨wrap_of_le_one, fun hn => ?_, ?_⟩, rfl, rfl, rfl⟩
  · have hpos : (0 : Int) < one := by decide
    have hdiv := Int.mul_ediv_add_emod n one
    have hlo := Int.emod_nonneg n hpos.ne'
    have hhi := Int.emod_lt_of_pos n hpos
    rw [Int.mul_comm] at hdiv
    exact ⟨n / one, Int.le_ediv_of_mul_le hpos (by omega), wrap_of_one_lt hn, by omega, by omega⟩
  · by_cases hn : (one : Int) < n
    · exact exists_ofBits_eq_wrap h hn
    · exact ⟨x, by rw [h, wrap_of_le_one (not_lt.mp hn)]⟩

/-! ### The conversion to a texel coordinate (R346, R347) -/

/-- The scaled component is the floor of R346's formula, when every value on the way is finite. -/
theorem scaled_eq_some_iff {e : Word32} {n i : Int} :
    scaled e n = some i ↔ ∃ k p q : Int, fl32 ((e.toNat : Int) - 1) 1 = .finite k ∧
      fl32 (k * n) (one * one) = .finite p ∧ fl32 (p + (1 <<< 148 : Nat)) one = .finite q ∧ i = q / one := by
  unfold scaled
  constructor
  · intro h
    split at h
    next k hk =>
      split at h
      next p hp =>
        split at h
        next q hq => cases h; exact ⟨k, p, q, hk, hp, hq, rfl⟩
        next => cases h
      next => cases h
    next => cases h
  · rintro ⟨k, p, q, hk, hp, hq, rfl⟩
    simp only [hk, hp, hq]

/-- An integer in the range of i32 is the value of just one word. -/
theorem ofInt_eq_iff_toInt_eq {i : Int} {t : Word32} :
    (-2147483648 ≤ i ∧ i ≤ 2147483647) ∧ BitVec.ofInt 32 i = t ↔ t.toInt = i := by
  constructor
  · rintro ⟨⟨hlo, hhi⟩, rfl⟩
    exact BitVec.toInt_ofInt_eq_self (by decide) hlo (by omega)
  · rintro rfl
    exact ⟨⟨BitVec.le_toInt t, Int.le_of_lt_add_one BitVec.toInt_lt⟩, BitVec.ofInt_toInt⟩

/-- A component converts when it is finite once wrapped, and is scaled to a finite value that is an i32. -/
theorem texelCoord_eq_some_iff {e : Word32} {c : F32} {t : Word32} :
    texelCoord e c = some t ↔ ∃ n, wrap (f32Value c) = .finite n ∧ scaled e n = some t.toInt := by
  simp only [texelCoord, ofBits_eq_f32Value]
  constructor
  · intro h
    split at h
    next n hn =>
      split at h
      next i hi =>
        split at h
        next hrange => exact ⟨n, hn, by rw [hi, ofInt_eq_iff_toInt_eq.mp ⟨hrange, Option.some_inj.mp h⟩]⟩
        next => cases h
      next => cases h
    next => cases h
  · rintro ⟨n, hn, hi⟩
    obtain ⟨hrange, ht⟩ := ofInt_eq_iff_toInt_eq.mpr (Eq.refl t.toInt)
    simp only [hn, hi, if_pos hrange, ht]

/-- The model's conversion is the formula of R346 and R347. -/
theorem texelCoord_iff_coordConverts {e : Word32} {c : F32} {t : Word32} :
    texelCoord e c = some t ↔ coordConverts e c t := by
  have hhalf : ((1 <<< 148 : Nat) : Int) = 2 ^ 148 := by rw [Nat.shiftLeft_eq]; norm_num
  simp only [texelCoord_eq_some_iff, scaled_eq_some_iff, coordConverts, exists_and_left, hhalf, one_eq, Nat.cast_pow,
    Nat.cast_ofNat]

end Sys2Proof.Machine.Fl32

/-! PROOFS. LOAD and SAMPLE as one operation: the checks of R348, the empty sample of a failed one, and what an operation alone
in progress leaves and returns. -/

namespace Sys2Proof.Machine

/-! ### The checks of LOAD (R348) -/

/-- The block geometry of the sampler's format (R342). -/
def State.blockGeometry (s : State) (smp : Nat) : Geometry :=
  geometry (s.kindOf (s.samplerView smp).format) (s.samplerView smp).format

theorem State.blockTexels_eq (s : State) (smp : Nat) : s.blockTexels smp = (s.blockGeometry smp).count := rfl

/-- The byte offset of the texel's block in its surface (R356). -/
def State.texelOffset (s : State) (smp : Nat) (t : Vec3) (sel : Selector) : Nat :=
  blockOffset (s.blockGeometry smp) ((s.samplerView smp).extent sel.mip).w.toNat t.x.toNat t.y.toNat

/-- The bytes of the texel's block (R356). -/
def State.texelBytes (s : State) (smp : Nat) (t : Vec3) (sel : Selector) : List Byte :=
  (((s.samplerView smp).surface (Spec.surfaceOf t sel)).drop (s.texelOffset smp t sel)).take (s.blockGeometry smp).bytes

/-- Every check of LOAD passes (R348 to R356). -/
def State.LoadPasses (s : State) (scr : Option ScratchRef) (smp : Nat) (t : Vec3) (sel : Selector) : Prop :=
  (s.samplerView smp).isEmpty = false ∧ s.blockTexels smp ≤ scratchCap scr ∧
    Spec.inRange t ((s.samplerView smp).extent sel.mip) ∧
    s.texelOffset smp t sel + (s.blockGeometry smp).bytes ≤ ((s.samplerView smp).surface (Spec.surfaceOf t sel)).length

/-- The activation of LOAD when every check passes: the texel's block is captured, and its entry is to be returned. -/
def State.loadActivation (s : State) (scr : Option ScratchRef) (smp : Nat) (t : Vec3) (sel : Selector) : Activation :=
  s.activation (fmtOfKind (s.kindOf (s.samplerView smp).format) (s.samplerView smp).format)
    (.sampler scr (s.blockTexels smp) (some (blockEntry (s.blockGeometry smp) t.x.toNat t.y.toNat)))
    (.span ((s.binding smp).getD 0) (Spec.surfaceOf t sel) (s.texelOffset smp t sel)) (s.texelBytes smp t sel)

theorem texelInRange_iff (t : Vec3) (e : Extent) : texelInRange t e = true ↔ Spec.inRange t e := by
  simp [texelInRange, coordInRange, Spec.inRange, and_assoc]

section

variable {s : State} {scr : Option ScratchRef} {smp : Nat} {t : Vec3} {sel : Selector}

theorem loadBlock_of_passes (h : s.LoadPasses scr smp t sel) :
    loadBlock s scr smp t sel = some (s.loadActivation scr smp t sel) := by
  obtain ⟨hempty, hcap, hrange, hspan⟩ := h
  have hread : memRead ((s.samplerView smp).surface (Spec.surfaceOf t sel)) (s.texelOffset smp t sel)
      (s.blockGeometry smp).bytes = some (s.texelBytes smp t sel) := if_pos hspan
  simp only [State.blockTexels, State.blockGeometry, State.texelOffset, Spec.surfaceOf] at hcap hread
  simp only [loadBlock, hempty, Bool.false_eq_true, if_false, if_neg (not_lt.mpr hcap),
    if_pos ((texelInRange_iff _ _).mpr hrange), hread]
  rfl

theorem loadBlock_of_not_passes (h : ¬ s.LoadPasses scr smp t sel) : loadBlock s scr smp t sel = none := by
  cases hload : loadBlock s scr smp t sel with
  | none => rfl
  | some a =>
    obtain ⟨hempty, hcap, hrange, bytes, hread, -⟩ := loadBlock_some s scr smp t sel a hload
    refine absurd ⟨hempty, hcap, (texelInRange_iff _ _).mp hrange, ?_⟩ h
    by_contra hspan
    exact absurd ((if_neg hspan).symm.trans hread) nofun

theorem loadFront_of_passes (h : s.LoadPasses scr smp t sel) : loadFront s scr smp t sel = s.loadActivation scr smp t sel := by
  rw [loadFront, loadBlock_of_passes h]

theorem loadFront_of_not_passes (h : ¬ s.LoadPasses scr smp t sel) : loadFront s scr smp t sel = s.emptyActivation scr smp := by
  rw [loadFront, loadBlock_of_not_passes h]

end

/-! ### A failed check (R350) -/

/-- An activation of a failed check shares its buffer with none that the request's buffer is unshared with. -/
theorem emptyActivation_unshared {s : State} {scr : Option ScratchRef} (h : Spec.bufferUnshared s scr) (smp : Nat) :
    ∀ b ∈ s.active, (s.emptyActivation scr smp).shares b = false := by
  intro b hb
  unfold Activation.shares
  split
  next hc _ => cases hc
  next hc hc' => cases hc; exact h _ rfl b hb _ _ _ hc'
  next => rfl

/-- A failed check returns the empty sample and changes nothing else. -/
theorem operate_emptyActivation_unshared {s : State} {scr : Option ScratchRef} (h : Spec.bufferUnshared s scr) (smp : Nat) :
    s.operate (s.emptyActivation scr smp) = .next (Spec.answered s (.sampled .none)) :=
  s.operate_emptyActivation scr smp (emptyActivation_unshared h smp)

theorem bufferUnshared_of_idle {s : State} (h : s.active = []) (scr : Option ScratchRef) : Spec.bufferUnshared s scr := by
  simp [Spec.bufferUnshared, h]

theorem exec_load_of_not_passes {s : State} {scr : Option ScratchRef} {smp : Nat} {t : Vec3} {sel : Selector}
    (hunshared : Spec.bufferUnshared s scr) (h : ¬ s.LoadPasses scr smp t sel) :
    exec (.load scr smp t sel) s = .next (Spec.answered s (.sampled .none)) := by
  rw [exec_of_frontEnd rfl, loadFront_of_not_passes h, operate_emptyActivation_unshared hunshared]

/-- Settles O30: each case is a check that does not pass. -/
theorem loadEmptyCases : Obligations.LoadEmptyCases := by
  intro scr smp t sel s hunshared hfails
  refine exec_load_of_not_passes hunshared ?_
  rintro ⟨hempty, hcap, hrange, hspan⟩
  rcases hfails with h | h | h | h
  · exact absurd (h.symm.trans hempty) nofun
  · exact absurd hcap (not_le.mpr h)
  · exact h hrange
  · exact absurd hspan (not_le.mpr h)

/-! ### SAMPLE's texel (R344, R347) -/

theorem sampleTexel_eq_some_iff {v : TextureView} {uv : Vec3} {mip : Word32} {t : Vec3} :
    sampleTexel v uv mip = some t ↔ Spec.converts v uv mip t := by
  simp only [Spec.converts, ← Fl32.texelCoord_iff_coordConverts, sampleTexel]
  constructor
  · intro h
    split at h
    next hx hy hz => cases h; exact ⟨hx, hy, hz⟩
    next => cases h
  · rintro ⟨hx, hy, hz⟩
    simp only [hx, hy, hz]

/-- SAMPLE of coordinates that convert is LOAD of their texel. -/
theorem exec_sample_of_converts {s : State} {smp : Nat} {uv t : Vec3} {sel : Selector} (scr : Option ScratchRef)
    (h : Spec.converts (s.samplerView smp) uv sel.mip t) : exec (.sample scr smp uv sel) s = exec (.load scr smp t sel) s := by
  rw [exec_of_frontEnd (i := .sample scr smp uv sel) rfl, exec_of_frontEnd (i := .load scr smp t sel) rfl, sampleFront,
    sampleTexel_eq_some_iff.mpr h]

/-- SAMPLE of coordinates that do not convert fails a check. -/
theorem exec_sample_of_not_converts {s : State} {scr : Option ScratchRef} {smp : Nat} {uv : Vec3} {sel : Selector}
    (hunshared : Spec.bufferUnshared s scr) (h : ∀ t, ¬ Spec.converts (s.samplerView smp) uv sel.mip t) :
    exec (.sample scr smp uv sel) s = .next (Spec.answered s (.sampled .none)) := by
  have hnone : sampleTexel (s.samplerView smp) uv sel.mip = none :=
    Option.eq_none_iff_forall_ne_some.mpr fun t ht => h t (sampleTexel_eq_some_iff.mp ht)
  rw [exec_of_frontEnd rfl, sampleFront, hnone, operate_emptyActivation_unshared hunshared]

/-- Settles O31: the model's conversion is R346's formula, and where it gives a texel SAMPLE's front end is LOAD's. -/
theorem sampleDelegates : Obligations.SampleDelegates := fun scr _ _ _ _ =>
  ⟨exec_sample_of_not_converts, fun _ => exec_sample_of_converts scr⟩

end Sys2Proof.Machine

/-! PROOFS. LOAD and SAMPLE with every check passed: the sample returned and the entries left, by the format, the block and the
texel alone. -/

namespace Sys2Proof.Machine

/-! ### An operation alone in progress -/

/-- An operation that begins with none in progress has none beside it. -/
theorem State.beside_idle {s : State} (h : s.active = []) (a : Activation) : s.beside a = s := by
  rw [State.beside, h, List.map_nil, ← h]

theorem scratchAfter_nil (m : Sparse Sample) (scr : Option ScratchRef) : scratchAfter m scr [] = m := by
  cases scr <;> rfl

/-- The scratch space is left as R367 and R343 say. -/
theorem scratchAfter_spec {m : Sparse Sample} (h : Scratch.wf m = true) (scr : Option ScratchRef) (samples : List Sample) :
    Spec.ScratchAfter m (scratchAfter m scr samples) scr samples := by
  cases scr with
  | none => rfl
  | some r => exact fun e => Scratch.read_writeAll m r.base samples e h

/-- What an operation returns of entry k, from the registers its decoder has set (R359, R363). -/
def WorkRegs.sampleAt (r : WorkRegs) (k : Nat) : Sample :=
  if r.status = .error then .none else (r.out.map sampleConvert).getD k .none

/-- The entry of the texel in its block (R359). -/
def State.texelEntry (s : State) (smp : Nat) (t : Vec3) : Nat :=
  blockEntry (s.blockGeometry smp) t.x.toNat t.y.toNat

/-- With every check passed and no other operation in progress, LOAD leaves the converted texels in the caller's entries, and
returns the texel's (R357 to R359). -/
theorem exec_load_of_passes {s : State} {scr : Option ScratchRef} {smp : Nat} {t : Vec3} {sel : Selector} {r : WorkRegs}
    (hactive : s.active = []) (h : s.LoadPasses scr smp t sel) (hdec : (s.loadActivation scr smp t sel).Decodes r) :
    exec (.load scr smp t sel) s = .next { Spec.answered s (.sampled (r.sampleAt (s.texelEntry smp t))) with
      scratch := scratchAfter s.scratch scr (r.out.map sampleConvert) } := by
  rw [exec_of_frontEnd rfl, loadFront_of_passes h, State.operate_of_yields (.inr ⟨rfl, hdec⟩), State.beside_idle hactive,
    hactive]
  rfl

/-- With every check passed there are registers that LOAD's block decodes to. -/
theorem exists_decodes_of_passes {s : State} {scr : Option ScratchRef} {smp : Nat} {t : Vec3} {sel : Selector}
    (h : s.LoadPasses scr smp t sel) : ∃ r, (s.loadActivation scr smp t sel).Decodes r :=
  Activation.exists_decodes (frontEnd_ok (i := .load scr smp t sel) (congrArg some (loadFront_of_passes h))) rfl

/-! ### The block-compressed kinds (R342, R366) -/

theorem geometry_of_blockKind {k : Kind} {fmt : Fmt} {sp : Space} (h : Spec.blockKind k = some (fmt, sp)) (format : Nat) :
    geometry k format = ⟨4, 4, 16, 16⟩ ∧ fmtOfKind k format = fmt ∧ fmt.space = some sp := by
  cases k <;> cases h <;> exact ⟨rfl, rfl, rfl⟩

/-- The entries of these kinds have 16 or 4 bytes. -/
theorem entryBytes_of_blockKind {k : Kind} {fmt : Fmt} {sp : Space} (h : Spec.blockKind k = some (fmt, sp)) :
    fmt.entryBytes = 16 ∨ fmt.entryBytes = 4 := by
  cases k <;> cases h <;> decide

/-- An entry of 16 or 4 bytes is a FLOAT4 or a BC7 texel, which R366 converts. -/
theorem sampleConvert_eq_converted {x : Texel} (h : x.bytes.length = 16 ∨ x.bytes.length = 4) :
    sampleConvert x = Spec.converted x := by
  cases x with
  | float4 | rgba8 => rfl
  | half3 | half4 | float3 | other => simp [Texel.bytes, length_bytesOfNat] at h

/-- A block of these kinds decodes by its instruction, with status OK, to texels that R366 converts. -/
theorem Activation.Decodes.of_blockKind {a : Activation} {r : WorkRegs} (h : a.Decodes r) {k : Kind} {sp : Space}
    (hkind : Spec.blockKind k = some (a.fmt, sp)) :
    (∃ i b, decodeBytes sp Operands.zero a.bytes = .ok i ∧ blockForm i = some b ∧ r = b.run a.regs) ∧
      r.status = .ok ∧ r.out.map sampleConvert = r.out.map Spec.converted := by
  have hsp := (geometry_of_blockKind hkind 0).2.2
  obtain ⟨hstatus, hbytes⟩ := h.entries (Option.isSome_of_eq_some hsp)
  refine ⟨?_, hstatus, List.map_congr_left fun x hx => sampleConvert_eq_converted ?_⟩
  · cases h with
    | other hfmt => rw [hfmt] at hsp; cases hsp
    | block hsp' hdec hform => cases hsp'.symm.trans hsp; exact ⟨_, _, hdec, hform, rfl⟩
  · rw [hbytes x hx]
    exact entryBytes_of_blockKind hkind

/-- Settles O32: with every check passed the block decodes by its instruction, and the operation leaves and returns its converted
texels. -/
theorem loadSampleComplete : Obligations.LoadSampleComplete := by
  intro scr smp t sel s fmt sp hactive hwf hempty hkind hcap hrange span w off entry bytes hspan
  obtain ⟨hgeom, hfmt, -⟩ := geometry_of_blockKind hkind (s.samplerView smp).format
  rw [← State.blockGeometry] at hgeom
  have hpasses : s.LoadPasses scr smp t sel := by
    simp only [State.LoadPasses, State.blockTexels_eq, State.texelOffset, hgeom]
    exact ⟨hempty, hcap, hrange, hspan⟩
  have hfresh : s.loadActivation scr smp t sel = Spec.fresh s fmt (.sampler scr 16 (some entry))
      (.span ((s.binding smp).getD 0) (Spec.surfaceOf t sel) off) bytes := by
    simp only [State.loadActivation, State.texelBytes, State.blockTexels_eq, State.texelOffset, hgeom, hfmt]
    rfl
  have hentry : s.texelEntry smp t = entry := by simp only [State.texelEntry, hgeom]; rfl
  obtain ⟨r, hr⟩ := exists_decodes_of_passes hpasses
  have hload := exec_load_of_passes hactive hpasses hr
  rw [hfresh] at hr
  obtain ⟨⟨i, b, hdec, hform, rfl⟩, hstatus, hconv⟩ := hr.of_blockKind hkind
  rw [WorkRegs.sampleAt, hstatus, if_neg nofun, hentry, hconv] at hload
  exact ⟨i, _, _, hdec, exec_alone hform s _, b.length_run_out _, scratchAfter_spec hwf scr _, hload,
    fun uv huv => (exec_sample_of_converts scr huv).trans hload⟩

/-! ### Kind OTHER (R363) -/

theorem map_sampleConvert_runOther (format : Nat) (bytes : List Byte) (r : WorkRegs) :
    (runOther format bytes r).out.map sampleConvert =
      (List.range (geometry .other format).count).map (Config.otherSample format bytes) :=
  List.map_map

/-- Settles O33: with every check passed the operation leaves and returns what `OtherDecoder` gives of the block. -/
theorem loadOtherFormat : Obligations.LoadOtherFormat := by
  intro scr smp t sel s v bw bh n span off bytes samples hactive hwf hempty hkind hcap hrange hspan
  have hgeom : s.blockGeometry smp = ⟨bw, bh, bw * bh, n⟩ := by rw [State.blockGeometry, hkind]; rfl
  have hpasses : s.LoadPasses scr smp t sel := by
    simp only [State.LoadPasses, State.blockTexels_eq, State.texelOffset, hgeom]
    exact ⟨hempty, hcap, hrange, hspan⟩
  have hbytes : s.texelBytes smp t sel = bytes := by
    simp only [State.texelBytes, State.texelOffset, hgeom]; rfl
  have hentry : s.texelEntry smp t = t.y.toNat % bh * bw + t.x.toNat % bw := by
    simp only [State.texelEntry, hgeom]; rfl
  have hdec : (s.loadActivation scr smp t sel).Decodes (runOther v.format bytes WorkRegs.start) :=
    hbytes ▸ .other (congrArg (fmtOfKind · v.format) hkind)
  have hload := exec_load_of_passes hactive hpasses hdec
  rw [WorkRegs.sampleAt, hentry, map_sampleConvert_runOther] at hload
  exact ⟨_, scratchAfter_spec hwf scr samples, hload⟩

/-! ### What the sample depends on (R360, R362) -/

/-- An activation decodes by its format, its captured block and its registers alone. -/
theorem Activation.Decodes.congr {a b : Activation} {r : WorkRegs} (h : a.Decodes r) (hfmt : b.fmt = a.fmt)
    (hbytes : b.bytes = a.bytes) (hregs : b.regs = a.regs) : b.Decodes r := by
  cases h with
  | block hsp hdec hform => exact hregs ▸ .block (hfmt ▸ hsp) (hbytes ▸ hdec) hform
  | other h => exact hregs ▸ hbytes ▸ .other (hfmt.trans h)

/-- Two LOADs of one texel of one view and kind, alone in progress, with buffers on one side of the capacity check: the same
sample is returned, and the same samples are left in the buffers. -/
theorem exec_load_agree {s₁ s₂ : State} {scr₁ scr₂ : Option ScratchRef} {smp : Nat} (t : Vec3) (sel : Selector)
    (hactive₁ : s₁.active = []) (hactive₂ : s₂.active = []) (hview : s₁.samplerView smp = s₂.samplerView smp)
    (hkind : s₁.kindOf (s₁.samplerView smp).format = s₂.kindOf (s₂.samplerView smp).format)
    (hcap : s₁.blockTexels smp ≤ scratchCap scr₁ ↔ s₁.blockTexels smp ≤ scratchCap scr₂) :
    ∃ x samples,
      exec (.load scr₁ smp t sel) s₁ =
        .next { Spec.answered s₁ (.sampled x) with scratch := scratchAfter s₁.scratch scr₁ samples } ∧
      exec (.load scr₂ smp t sel) s₂ =
        .next { Spec.answered s₂ (.sampled x) with scratch := scratchAfter s₂.scratch scr₂ samples } := by
  rw [hview] at hkind
  have hgeom : s₁.blockGeometry smp = s₂.blockGeometry smp := by
    rw [State.blockGeometry, State.blockGeometry, hview, hkind]
  have htexels : s₁.blockTexels smp = s₂.blockTexels smp := congrArg Geometry.count hgeom
  have hoffset : s₁.texelOffset smp t sel = s₂.texelOffset smp t sel := by
    rw [State.texelOffset, State.texelOffset, hgeom, hview]
  have hpasses : s₁.LoadPasses scr₁ smp t sel ↔ s₂.LoadPasses scr₂ smp t sel := by
    rw [State.LoadPasses, State.LoadPasses, hcap, htexels, hoffset, hgeom, hview]
  by_cases h : s₁.LoadPasses scr₁ smp t sel
  · obtain ⟨r, hr⟩ := exists_decodes_of_passes h
    have hr₂ : (s₂.loadActivation scr₂ smp t sel).Decodes r := by
      refine hr.congr ?_ ?_ rfl
      · simp only [State.loadActivation, State.activation, hview, hkind]
      · simp only [State.loadActivation, State.activation, State.texelBytes, hgeom, hoffset, hview]
    refine ⟨r.sampleAt (s₁.texelEntry smp t), r.out.map sampleConvert, exec_load_of_passes hactive₁ h hr, ?_⟩
    rw [State.texelEntry, hgeom]
    exact exec_load_of_passes hactive₂ (hpasses.mp h) hr₂
  · refine ⟨.none, [], ?_, ?_⟩ <;> rw [scratchAfter_nil]
    · exact exec_load_of_not_passes (bufferUnshared_of_idle hactive₁ scr₁) h
    · exact exec_load_of_not_passes (bufferUnshared_of_idle hactive₂ scr₂) (mt hpasses.mpr h)

/-- Settles O35: the two LOADs agree. -/
theorem loadDeterministic : Obligations.LoadDeterministic := by
  intro scr₁ scr₂ smp t sel s₁ s₂ hactive₁ hactive₂ hview hkind hcap
  obtain ⟨x, samples, h₁, h₂⟩ := exec_load_agree t sel hactive₁ hactive₂ hview hkind hcap
  exact ⟨x, _, _, h₁, h₂, rfl, rfl⟩

/-- Settles O34: in one state the internal buffer and the caller's pass the same checks, so the two LOADs agree; SAMPLE is one of
them, or fails a check with either buffer. -/
theorem internalBufferForm : Obligations.InternalBufferForm := by
  intro r smp t uv sel s hactive hsize
  have hcap : s.blockTexels smp ≤ scratchCap none ↔ s.blockTexels smp ≤ scratchCap (some r) := by
    simp only [State.blockTexels, scratchCap, Config.maxBlockTexels]
    omega
  have hload : ∀ t, ∃ x m, exec (.load none smp t sel) s = .next (Spec.answered s x) ∧
      exec (.load (some r) smp t sel) s = .next { Spec.answered s x with scratch := m } := by
    intro t
    obtain ⟨x, samples, hinternal, hcaller⟩ := exec_load_agree t sel hactive hactive rfl rfl hcap
    exact ⟨_, _, hinternal, hcaller⟩
  refine ⟨hload t, ?_⟩
  by_cases huv : ∃ t, Spec.converts (s.samplerView smp) uv sel.mip t
  · obtain ⟨t', ht'⟩ := huv
    rw [exec_sample_of_converts none ht', exec_sample_of_converts (some r) ht']
    exact hload t'
  · have hempty := fun scr => exec_sample_of_not_converts (bufferUnshared_of_idle hactive scr) (not_exists.mp huv)
    exact ⟨_, s.scratch, hempty none, hempty (some r)⟩

end Sys2Proof.Machine

/-! PROOFS. Progress (R380, R385): from a state of the invariant no event, no running activation and no waiting request makes a
step fault or refuse. An activation in shape has registers to return with, so it runs, and an operation with it, to a next
state. -/

namespace Sys2Proof.Machine

/-- An activation in shape yields registers: those it has when it is to return, those its block decodes to otherwise. -/
theorem Activation.exists_yields {a : Activation} (h : a.ok = true) : ∃ r, a.Yields r := by
  cases hphase : a.phase with
  | returning => exact ⟨a.regs, .inl ⟨hphase, rfl⟩⟩
  | decoding =>
    obtain ⟨r, hr⟩ := Activation.exists_decodes h hphase
    exact ⟨r, .inr ⟨hphase, hr⟩⟩

/-- A running activation in shape takes its next step. -/
theorem stepActive_completes {s : State} {a : Activation} {rest : List Activation} (hactive : s.active = a :: rest)
    (h : a.ok = true) : ∃ t, stepActive a s = .next t := by
  rw [stepActive_eq_runActive hactive]
  obtain ⟨r, ⟨hphase, -⟩ | ⟨hphase, hr⟩⟩ := Activation.exists_yields h
  · exact ⟨_, runActive_of_returning hactive hphase⟩
  · exact ⟨_, runActive_of_decodes hactive hphase hr⟩

/-- A request that decodes completes as one operation, in any state: its activation begins in shape. -/
theorem exec_request_completes {cmd : Byte} {o : Operands} {i : Instr} (hdec : decodeRequest cmd o = .ok i) (s : State) :
    ∃ t, exec i s = .next t := by
  obtain ⟨a, hfront⟩ := frontEnd_of_decodeRequest hdec s
  obtain ⟨r, hr⟩ := Activation.exists_yields (frontEnd_ok hfront)
  exact ⟨_, (exec_of_frontEnd hfront).trans (State.operate_of_yields hr s)⟩

/-- A waiting request completes, or is taken with no effect (R157; log 10). -/
theorem stepRequest_completes (r : Request) (rest : List Request) (s : State) : ∃ t, stepRequest r rest s = .next t := by
  unfold stepRequest
  split
  next i hdec => exact exec_request_completes hdec _
  next => exact ⟨_, rfl⟩

theorem stepUnit_completes {s : State} (h : ∀ a ∈ s.active, a.ok = true) : ∃ t, stepUnit s = .next t := by
  unfold stepUnit
  split
  next a rest hactive => exact stepActive_completes hactive (h a (by simp [hactive]))
  next =>
    split
    next => exact ⟨s, rfl⟩
    next r rest _ => exact stepRequest_completes r rest s

theorem stepAdvance_completes {s : State} (k : Nat) (h : ∀ a ∈ s.active, a.ok = true) :
    ∃ t, stepAdvance k s = .next t := by
  unfold stepAdvance
  split
  next => exact ⟨s, rfl⟩
  next a hk =>
    have hactive : (s.bringForward k).active = a :: s.active.eraseIdx k := by simp only [State.bringForward, hk]
    exact stepActive_completes hactive (h a (List.mem_of_getElem? hk))

theorem stepEvent_completes {s : State} (e : Event) (h : ∀ a ∈ s.active, a.ok = true) :
    ∃ t, stepEvent e s = .next t := by
  cases e with
  | advance k => exact stepAdvance_completes k h
  | issue | memWrite | spanWrite | createSampler => exact ⟨_, rfl⟩

/-- Settles O47: of the invariant only the shapes of the activations in progress have a part in it. -/
theorem stepAlwaysCompletes : Obligations.StepAlwaysCompletes := by
  intro s hinv
  have hok := ((State.inv_iff s).mp hinv).2
  cases hagenda : s.agenda with
  | nil =>
    rw [step_nil s hagenda]
    exact stepUnit_completes hok
  | cons e rest =>
    rw [step_cons s e rest hagenda]
    exact stepEvent_completes e hok

end Sys2Proof.Machine

/-! PROOFS. Operations in progress that share a buffer (R414): every move and event keeps each operation's buffer and its mark, an
operation that begins marks its sharers, and so any two that share stay marked. -/

namespace Sys2Proof.Machine

/-- Two operations in progress are marked raced if they share a buffer (R414). -/
def MarkedIfShared (a b : Activation) : Prop :=
  a.shares b = true → a.raced = true ∧ b.raced = true

/-- An operation in progress has the buffer it had, and stays marked if it was. -/
structure KeepsMark (a a' : Activation) : Prop where
  fmt : a'.fmt = a.fmt
  client : a'.client = a.client
  raced : a.raced = true → a'.raced = true

theorem KeepsMark.refl (a : Activation) : KeepsMark a a :=
  ⟨rfl, rfl, id⟩

theorem SameButBytes.keepsMark {a a' : Activation} (h : SameButBytes a a') : KeepsMark a a' := by
  obtain ⟨bytes, -, rfl⟩ := h
  exact ⟨rfl, rfl, id⟩

/-- Whether two operations share a buffer depends on their formats and clients alone. -/
theorem Activation.shares_congr {a a' b b' : Activation} (ha : KeepsMark a a') (hb : KeepsMark b b') :
    a'.shares b' = a.shares b := by
  simp only [Activation.shares, ha.fmt, ha.client, hb.fmt, hb.client]

theorem sameBuffer_comm (a n b m : Nat) : sameBuffer a n b m = sameBuffer b m a n := by
  simp only [sameBuffer, eq_comm (a := a), Bool.and_comm]

theorem Activation.shares_comm (a b : Activation) : a.shares b = b.shares a := by
  unfold Activation.shares
  cases a.client with
  | decode out =>
    cases b.client with
    | decode out' => exact sameBuffer_comm _ _ _ _
    | sampler scr' => cases scr' <;> rfl
  | sampler scr =>
    cases b.client with
    | decode out' => cases scr <;> rfl
    | sampler scr' =>
      cases scr with
      | none => cases scr' <;> rfl
      | some r =>
        cases scr' with
        | none => rfl
        | some r' => exact sameBuffer_comm _ _ _ _

theorem MarkedIfShared.symm {a b : Activation} (h : MarkedIfShared a b) : MarkedIfShared b a := fun hba =>
  (h (a.shares_comm b ▸ hba)).symm

theorem MarkedIfShared.of_keepsMark {a a' b b' : Activation} (h : MarkedIfShared a b) (ha : KeepsMark a a')
    (hb : KeepsMark b b') : MarkedIfShared a' b' := by
  intro hshares
  rw [Activation.shares_congr ha hb] at hshares
  exact (h hshares).imp ha.raced hb.raced

/-- Operations that keep their buffers and marks stay marked where they share. -/
theorem pairwise_of_keepsMark {as as' : List Activation} (h : List.Forall₂ KeepsMark as as')
    (hs : as.Pairwise MarkedIfShared) : as'.Pairwise MarkedIfShared := by
  rw [List.pairwise_iff_get] at hs ⊢
  intro i j hij
  have hi : i < as.length := h.length_eq.symm ▸ i.isLt
  have hj : j < as.length := h.length_eq.symm ▸ j.isLt
  exact (hs ⟨i, hi⟩ ⟨j, hj⟩ hij).of_keepsMark (h.get hi i.isLt) (h.get hj j.isLt)

/-- The activations beside one that begins keep their buffers, and more of them are marked. -/
theorem State.beside_keepsMark (s : State) (a : Activation) : List.Forall₂ KeepsMark s.active (s.beside a).active := by
  refine List.forall₂_map_right_iff.mpr (List.forall₂_same.mpr fun b _ => ?_)
  split
  · exact ⟨rfl, rfl, fun _ => rfl⟩
  · exact .refl b

/-- An operation that begins is marked, and marks each that it shares its buffer with. -/
theorem State.begin_sharersRaced {s : State} (hs : s.SharersRaced) (a : Activation) : (s.begin a).SharersRaced := by
  refine List.pairwise_cons.mpr ⟨fun y hy hshares => ?_, pairwise_of_keepsMark (s.beside_keepsMark a) hs⟩
  obtain ⟨b, hb, rfl⟩ := List.mem_map.mp hy
  have hab : a.shares b = true := by split at hshares <;> exact hshares
  exact ⟨List.any_eq_true.mpr ⟨b, hb, hab⟩, by rw [if_pos hab]⟩

theorem State.bringForward_sharersRaced {s : State} (hs : s.SharersRaced) (k : Nat) : (s.bringForward k).SharersRaced := by
  unfold State.bringForward
  split
  next => exact hs
  next a hk =>
    obtain ⟨hlt, rfl⟩ := List.getElem?_eq_some_iff.mp hk
    exact hs.perm (List.getElem_cons_eraseIdx_perm hlt).symm MarkedIfShared.symm

theorem UnitMove.sharersRaced {s t : State} (h : UnitMove s t) (hs : s.SharersRaced) : t.SharersRaced := by
  cases h with
  | take => exact hs
  | bringForward k => exact State.bringForward_sharersRaced hs k
  | begin => exact State.begin_sharersRaced hs _
  | @decode a _ r hactive =>
    rw [State.SharersRaced, hactive] at hs
    have hdecoded : KeepsMark a { a with regs := r, phase := .returning } := ⟨rfl, rfl, id⟩
    exact pairwise_of_keepsMark (.cons hdecoded (List.forall₂_same.mpr fun b _ => .refl b)) hs
  | deliver hactive =>
    rw [State.SharersRaced, hactive] at hs
    exact pairwise_of_keepsMark ((State.deliverTo_active _ _).imp fun _ _ => SameButBytes.keepsMark) hs.of_cons

theorem HostMove.sharersRaced {s t : State} {e : Event} (h : HostMove s e t) (hs : s.SharersRaced) : t.SharersRaced := by
  have hdisturb : ∀ hit b, (disturb hit b s.active s.freeCount).1.Pairwise MarkedIfShared := fun hit b =>
    pairwise_of_keepsMark ((disturb_forall₂ hit b _ _).imp fun _ _ h => h.sameButBytes.keepsMark) hs
  cases h with
  | memWrite addr b => exact hdisturb _ b
  | spanWrite view sel off b => exact hdisturb _ b
  | createSampler smp view => simpa [State.SharersRaced] using hs

/-- Settles O49: every move and event keeps the sharers marked. -/
theorem stepMarksSharers : Obligations.StepMarksSharers := fun _ _ hs h =>
  step_keeps (P := State.SharersRaced) UnitMove.sharersRaced HostMove.sharersRaced h hs

end Sys2Proof.Machine

/-! PROOFS. An operation in steps (R419; log 1): issued, decoded and returned with none beside it, it ends as it does run whole. -/

namespace Sys2Proof.Machine

open Sys2Proof.Spec (steps)

/-- A front end begins its activation unmarked. -/
theorem frontEnd_unmarked {s : State} {i : Instr} {a : Activation} (h : frontEnd s i = some a) : a.raced = false := by
  rcases frontEnd_cases h with ⟨fmt, blk, out, -, -, rfl⟩ | ⟨scr, smp, rfl⟩ | ⟨scr, smp, texel, sel, hload⟩
  · rfl
  · rfl
  · obtain ⟨-, -, -, bytes, -, rfl⟩ := loadBlock_some s scr smp texel sel a hload
    rfl

/-- What a request begins with does not depend on the events that are due. -/
theorem frontEnd_agenda (s : State) (i : Instr) (ev : List Event) : frontEnd { s with agenda := ev } i = frontEnd s i := by
  cases i <;> rfl

/-- An operation alone in progress ends with its return in two steps, or in one when it has no block to decode. -/
theorem steps_alone {a : Activation} {r : WorkRegs} (hraced : a.raced = false) (h : a.Yields r) (s : State) :
    steps 2 (s.running [a] [0, 0]) = .next ((s.returned (a.decoded r)).running [] []) := by
  rcases h with ⟨hphase, rfl⟩ | ⟨hphase, hdec⟩
  · have hret : a.decoded a.regs = a := by rw [Activation.decoded, ← hphase]
    rw [hret]
    exact steps_return hphase hraced 1 s rfl (by simp) [0]
  · exact steps_one hphase hraced hdec s

/-- An operation run whole with none in progress leaves the state that its return does. -/
theorem State.operate_alone {s : State} {a : Activation} {r : WorkRegs} (hactive : s.active = []) (hraced : a.raced = false)
    (h : a.Yields r) : s.operate a = .next (s.returned (a.decoded r)) := by
  have hunmarked : { a with raced := s.active.any a.shares, regs := r, phase := .returning } = a.decoded r := by
    rw [hactive, List.any_nil, ← hraced, Activation.decoded]
  rw [State.operate_of_yields h, State.beside_idle hactive, hunmarked]
  exact congrArg _ (State.deliverTo_unraced hraced (by simp [hactive]))

/-- An operation that begins with none in progress runs alone. -/
theorem State.begin_alone {s : State} {a : Activation} (hactive : s.active = []) (hraced : a.raced = false) :
    s.begin a = { s with active := [a] } := by
  rw [s.begin_unshared a (by simp [hactive]), hactive, ← hraced]

/-- With no operation in progress and no event due, advancing twice more changes nothing. -/
theorem steps_idle {s : State} (hactive : s.active = []) (hagenda : s.agenda = []) :
    steps 2 { s with agenda := [.advance 0, .advance 0] } = .next s := by
  have hs : s.running [] [] = s := by rw [State.running, List.map_nil, ← hactive, ← hagenda]
  calc steps 2 { s with agenda := [.advance 0, .advance 0] }
    _ = steps 2 (s.running [] [0, 0]) := by rw [State.running, ← hactive]; rfl
    _ = .next (s.running [] []) := rfl
    _ = .next s := by rw [hs]

/-- When the event `issue` is due, the first step takes the oldest request and begins its activation. -/
theorem steps_issue (s : State) (ev : List Event) (n : Nat) :
    steps (n + 1) { s with agenda := .issue :: ev } = steps n (State.issueNext { s with agenda := ev }) := rfl

/-- A request that decodes, issued with none in progress, ends in two further steps as its operation run whole. -/
theorem steps_issued {s : State} (hactive : s.active = []) (hagenda : s.agenda = []) {i : Instr} {a : Activation}
    (hfront : frontEnd s i = some a) :
    steps 2 (State.start { s with agenda := [.advance 0, .advance 0] } i) = exec i s := by
  have hraced := frontEnd_unmarked hfront
  obtain ⟨r, hr⟩ := Activation.exists_yields (frontEnd_ok hfront)
  rw [exec_of_frontEnd hfront, State.operate_alone hactive hraced hr, start_eq, frontEnd_agenda, hfront]
  have hbegin := State.begin_alone (s := { s with agenda := [.advance 0, .advance 0] }) hactive hraced
  have hreturned : (s.returned (a.decoded r)).running [] [] = s.returned (a.decoded r) := by
    rw [State.running, List.map_nil, ← hactive, ← hagenda]
    rfl
  rw [Option.map_some, Option.getD_some, hbegin, ← hreturned]
  exact steps_alone hraced hr s

/-- Settles O50: no request waits, or the oldest is refused, or its activation runs alone. -/
theorem stepwiseIsAtomic : Obligations.StepwiseIsAtomic := by
  intro s hagenda hactive
  rw [steps_issue]
  cases hqueue : s.queue with
  | nil =>
    rw [step_idle hagenda hactive hqueue]
    have hidle := steps_idle hactive hagenda
    rwa [hqueue] at hidle
  | cons q rest =>
    simp only [State.issueNext]
    cases hdec : decodeRequest q.cmd q.ops with
    | error why =>
      have hstep : step s = .next { s with queue := rest } := by
        rw [step_nil s hagenda]
        simp only [stepUnit, hactive, hqueue, stepRequest, hdec]
      rw [hstep]
      exact steps_idle (s := { s with queue := rest }) hactive hagenda
    | ok i =>
      rw [step_request hagenda hactive hqueue hdec]
      obtain ⟨a, hfront⟩ := frontEnd_of_decodeRequest hdec { s with queue := rest, issuer := q.requester }
      exact steps_issued (s := { s with queue := rest, issuer := q.requester }) hactive hagenda hfront

end Sys2Proof.Machine

/-! PROOFS. The return of a raced operation (R414, R415): its result and what it stores are free values, the rest of the machine is
as it was, and the others in progress are torn at most. -/

namespace Sys2Proof.Machine

/-- Storing bytes changes requester memory, captured bytes of the operations in progress, and the counter of free values. -/
theorem State.storeBytes_frame : ∀ (s : State) (addr : Nat) (bs : List Byte),
    let t := s.storeBytes addr bs
    t = { s with mem := t.mem, active := t.active, freeCount := t.freeCount }
  | _, _, [] => rfl
  | s, addr, b :: bs => State.storeBytes_frame (s.storeByte addr b) (addr + 1) bs

theorem getD_freeBytes {k n : Nat} (first : Nat) (h : k < n) : (freeBytes first n).getD k 0 = Config.freeByte (first + k) := by
  simp [freeBytes, h]

/-- A captured byte that free bytes were stored to is the old one, or the free one stored there. -/
theorem TornBy.of_freeBytes {addr first n : Nat} {b b' : Activation} (h : TornBy addr (freeBytes first n) b b') :
    b' = { b with bytes := b'.bytes } ∧ b'.bytes.length = b.bytes.length ∧
      ∀ j, b'.bytes[j]? = b.bytes[j]? ∨
        ∃ c, addr ≤ c ∧ c < addr + n ∧ b.memByte c = some j ∧
          b'.bytes[j]? = some (Config.freeByte (first + (c - addr))) := by
  obtain ⟨hframe, hlen, hbytes⟩ := h
  refine ⟨hframe, hlen, fun j => (hbytes j).imp_right ?_⟩
  rintro ⟨c, hlo, hhi, hhit, hbyte⟩
  rw [length_freeBytes] at hhi
  rw [getD_freeBytes first (by omega)] at hbyte
  exact ⟨c, hlo, hhi, hhit, hbyte⟩

/-- What a byte reads as after free bytes were stored. -/
theorem State.read_storeBytes_freeBytes {s : State} (h : Memory.wf s.mem = true) (addr first n c : Nat) :
    Memory.read (s.storeBytes addr (freeBytes first n)).mem c =
      if addr ≤ c ∧ c < addr + n then Config.freeByte (first + (c - addr)) else Memory.read s.mem c := by
  rw [s.read_storeBytes _ _ _ h, length_freeBytes]
  split
  · exact getD_freeBytes first (by omega)
  · rfl

/-- The step in which an operation returns, with no event due. -/
theorem step_returning {s : State} {a : Activation} {rest : List Activation} (hagenda : s.agenda = [])
    (hactive : s.active = a :: rest) (hphase : a.phase = .returning) :
    step s = .next (State.deliverTo { s with active := rest } a) :=
  (step_active hagenda hactive).trans (runActive_of_returning hactive hphase)

/-- A raced LOAD or SAMPLE returns a free sample and leaves free samples in its entries (D26; log 29). -/
theorem State.deliverTo_raced_sampler {s : State} {a : Activation} {scr : Option ScratchRef} {count : Nat}
    {entry : Option Nat} (hraced : a.raced = true) (hclient : a.client = .sampler scr count entry) :
    s.deliverTo a = State.answer
      { s with scratch := scratchAfter s.scratch scr (freeSamples (s.freeCount + 1) count),
               freeCount := s.freeCount + 1 + count }
      a.requester (.sampled (Config.freeSample s.freeCount)) := by
  simp only [State.deliverTo, hclient, State.deliverSample, hraced, if_true]

/-- A raced DECODE returns a free status and stores free bytes in its output buffer (D26). -/
theorem State.deliverTo_raced_decode {s : State} {a : Activation} {out : OutRef} (hraced : a.raced = true)
    (hclient : a.client = .decode out) :
    s.deliverTo a = State.answer
      (State.storeBytes { s with freeCount := s.freeCount + 1 + a.fmt.outBytes } out.addr
        (freeBytes (s.freeCount + 1) a.fmt.outBytes))
      a.requester (.decoded (Config.freeStatus s.freeCount)) := by
  simp only [State.deliverTo, hclient, State.deliverDecode, hraced, if_true]

section

variable {s : State} {a : Activation} {out : OutRef}

theorem State.deliverTo_raced_decode_frame (hraced : a.raced = true) (hclient : a.client = .decode out) :
    let t := s.deliverTo a
    t = { s with
      mem := t.mem, active := t.active, freeCount := t.freeCount,
      results := s.results ++ [⟨a.requester, .decoded (Config.freeStatus s.freeCount)⟩] } := by
  dsimp only
  rw [State.deliverTo_raced_decode hraced hclient]
  conv_lhs => rw [State.storeBytes_frame]
  rfl

theorem State.deliverTo_raced_decode_active (hraced : a.raced = true) (hclient : a.client = .decode out) :
    List.Forall₂ (TornBy out.addr (freeBytes (s.freeCount + 1) a.fmt.outBytes)) s.active (s.deliverTo a).active := by
  rw [State.deliverTo_raced_decode hraced hclient]
  exact State.storeBytes_active { s with freeCount := s.freeCount + 1 + a.fmt.outBytes } _ _

theorem State.read_deliverTo_raced_decode (hraced : a.raced = true) (hclient : a.client = .decode out)
    (hwf : Memory.wf s.mem = true) (c : Nat) :
    Memory.read (s.deliverTo a).mem c =
      if out.addr ≤ c ∧ c < out.addr + a.fmt.outBytes then Config.freeByte (s.freeCount + 1 + (c - out.addr))
      else Memory.read s.mem c := by
  rw [State.deliverTo_raced_decode hraced hclient]
  exact State.read_storeBytes_freeBytes (s := { s with freeCount := s.freeCount + 1 + a.fmt.outBytes }) hwf _ _ _ c

end

/-- Settles O52: the step returns the raced operation, and a DECODE's store tears the others at most. -/
theorem racedResultsFree : Obligations.RacedResultsFree := by
  intro s a rest hagenda hactive hphase hraced
  rw [step_returning hagenda hactive hphase]
  refine ⟨fun scr count entry hclient hwf => ?_, fun out hclient hwf => ?_⟩
  · rw [State.deliverTo_raced_sampler hraced hclient]
    exact ⟨_, scratchAfter_spec hwf scr _, rfl⟩
  · have htorn := State.deliverTo_raced_decode_active (s := { s with active := rest }) hraced hclient
    refine ⟨_, rfl, State.deliverTo_raced_decode_frame (s := { s with active := rest }) hraced hclient,
      htorn.length_eq.symm, fun k b b' hb hb' => ?_,
      State.read_deliverTo_raced_decode (s := { s with active := rest }) hraced hclient hwf⟩
    obtain ⟨hk, rfl⟩ := List.getElem?_eq_some_iff.mp hb
    obtain ⟨hk', rfl⟩ := List.getElem?_eq_some_iff.mp hb'
    exact (htorn.get hk hk').of_freeBytes

end Sys2Proof.Machine
